-- ==== Sys2Proof/Word.lean ====
section
/-! DEFINITION. Word.lean: the machine word and the control word (spec/00 R7, R15, R18; spec/10 R29).
A value of width `W` is a `BitVec W`: bit 0 is the least significant bit of the integer (spec/00 R15); VC7's vector
index `i` is integer bit `W - 1 - i` (C7). The bit width `N` is a parameter of everything below. -/
namespace Sys2Proof

/-- An `n`-bit value: the bus, `A`, `B`, `IR`, `PC`, `MAR` and every RAM word (spec/00 R7, R8). -/
abbrev Word (n : Nat) : Type := BitVec n

/-- A control word: which of the eighteen control lines are asserted, "a bit-flag set of named control lines"
(spec/30 R73, spec/10 R29), one flag per line of spec/00 R18. The semantics are stated on this set; its numeric form
is in Decode.lean. -/
structure ControlWord where
  /-- register-A-in -/
  ai : Bool := false
  /-- register-A-out -/
  ao : Bool := false
  /-- register-B-in -/
  bi : Bool := false
  /-- register-B-out -/
  bo : Bool := false
  /-- instruction-reg-in -/
  ii : Bool := false
  /-- instruction-reg-out -/
  io : Bool := false
  /-- ram-in (memory write) -/
  ri : Bool := false
  /-- ram-out (memory read) -/
  ro : Bool := false
  /-- memory-address-in -/
  mi : Bool := false
  /-- alu-out -/
  eo : Bool := false
  /-- alu-mode-bit-1 -/
  m1 : Bool := false
  /-- alu-mode-bit-2 -/
  m2 : Bool := false
  /-- alu-mode-bit-3 -/
  m3 : Bool := false
  /-- counter-enable -/
  ce : Bool := false
  /-- counter-in -/
  ci : Bool := false
  /-- counter-out -/
  co : Bool := false
  /-- output-reg-in -/
  oi : Bool := false
  /-- halt -/
  hlt : Bool := false
  deriving DecidableEq, Repr

/-- The empty word: no line asserted (spec/30 R73, R74 (e)). -/
def ControlWord.empty : ControlWord := {}

end Sys2Proof
end

