-- ==== Sys2Proof/Config.lean ====
section
/-! DEFINITION. Config.lean: what is fixed when a machine is built (spec/00 R7 to R14, spec/10 R35).
`N` itself is `State.width`; `HAS_OUT` is whether `CoreState.out` is present; `IMAGE` is an input of construction only
(Machine/Construct.lean). Nothing here is an uninterpreted constant: every statement about all states quantifies over
every configuration, and `State.reset` takes the spec's reference values (entries 2, 5, 9, 16, 18). -/
namespace Sys2Proof

/-- The five operations of the ALU (spec/43 R167; spec/30 R75). -/
inductive AluOp where
  | and
  | or
  | xor
  | add
  | sub
  deriving DecidableEq, Repr

/-- The configuration of one machine (spec/10 R35). No tick changes it. -/
structure Config where
  /-- `MICROCODE`: opcode to its ordered list of control words, written as `CW18` naturals (spec/00 R9, spec/30 R78).
  An opcode that is no key is undefined; a key may be any natural (spec/30 R80 (b)). -/
  microcode : List (Nat × List Nat)
  /-- `ALU_MODE_MAP`: the codes that have an operation; every other code defaults to SUBTRACT
  (spec/00 R11, spec/30 R76, spec/43 R173). -/
  aluModeMap : List (Nat × AluOp)
  /-- `INTERVAL_MIN` (spec/00 R14). -/
  intervalMin : Nat
  /-- `INTERVAL_MAX` (spec/00 R14). -/
  intervalMax : Nat
  deriving DecidableEq, Repr

end Sys2Proof
end

