-- ==== Sys2Proof/Syntax.lean ====
section
/-! DEFINITION. Syntax.lean: one constructor per row of spec/opcode_table.json (spec/30 R85). -/
namespace Sys2Proof

/-- The rows of the opcode table: the eighteen control lines (format `CW18`), the three sequencer rows (format `SEQ`)
and the sixteen rows of the reference table `REF` (format `I`, spec/45), each of which carries the operand of its word,
`lo(IR)`, whether or not the instruction uses it. `HLT` names two rows: the control line `hltLine` and the `REF`
instruction `hlt`. -/
inductive Instr where
  -- format CW18: the control lines, in the order of their bits (spec/30 R73)
  | ai
  | ao
  | bi
  | bo
  | ii
  | io
  | ri
  | ro
  | mi
  | eo
  | m1
  | m2
  | m3
  | ce
  | ci
  | co
  | oi
  | hltLine
  -- format SEQ: selected by UPC (spec/44 R187, R188, R190)
  | lookup
  | fetch
  | skipAhead
  -- format I: the reference table REF (spec/45 R215 to R229)
  | nop (operand : Nat)
  | lda (operand : Nat)
  | add (operand : Nat)
  | sub (operand : Nat)
  | sta (operand : Nat)
  | ldi (operand : Nat)
  | jmp (operand : Nat)
  | and (operand : Nat)
  | or (operand : Nat)
  | xor (operand : Nat)
  | tba (operand : Nat)
  | out (operand : Nat)
  | hlt (operand : Nat)
  | undefB (operand : Nat)
  | undefC (operand : Nat)
  | undefD (operand : Nat)
  deriving DecidableEq, Repr

end Sys2Proof
end

