-- ==== Sys2Proof/WellFormed.lean ====
section
/-! DEFINITION. WellFormed.lean: which instructions a word of memory can hold (spec/30 R70, R83). -/
namespace Sys2Proof

/-- Well formed at half width `h`: the operand of a format `I` row is "a natural `< 2^H`" (spec/30 R83). Control lines
and sequencer rows have no operand. -/
def Instr.wfAt (h : Nat) : Instr → Bool
  | .ai => true
  | .ao => true
  | .bi => true
  | .bo => true
  | .ii => true
  | .io => true
  | .ri => true
  | .ro => true
  | .mi => true
  | .eo => true
  | .m1 => true
  | .m2 => true
  | .m3 => true
  | .ce => true
  | .ci => true
  | .co => true
  | .oi => true
  | .hltLine => true
  | .lookup => true
  | .fetch => true
  | .skipAhead => true
  | .nop n => decide (n < 2 ^ h)
  | .lda n => decide (n < 2 ^ h)
  | .add n => decide (n < 2 ^ h)
  | .sub n => decide (n < 2 ^ h)
  | .sta n => decide (n < 2 ^ h)
  | .ldi n => decide (n < 2 ^ h)
  | .jmp n => decide (n < 2 ^ h)
  | .and n => decide (n < 2 ^ h)
  | .or n => decide (n < 2 ^ h)
  | .xor n => decide (n < 2 ^ h)
  | .tba n => decide (n < 2 ^ h)
  | .out n => decide (n < 2 ^ h)
  | .hlt n => decide (n < 2 ^ h)
  | .undefB n => decide (n < 2 ^ h)
  | .undefC n => decide (n < 2 ^ h)
  | .undefD n => decide (n < 2 ^ h)

/-- Well formed at the reference width `N = 8`, `H = 4`, at which spec/45 defines the table. -/
def Instr.wf (i : Instr) : Bool := i.wfAt 4

end Sys2Proof
end

