-- ==== Sys2Proof/Decode.lean ====
section
/-! DEFINITION. Decode.lean: the two encodings of the machine, read and written (spec/30).
An instruction word of RAM is `opcode * 2^H + operand` (R70); a control word of the microcode ROM is an 18-bit natural
with one bit per line (R73). -/
namespace Sys2Proof

/-! ## Control words (format `CW18`) -/

/-- The LOOKUP and skip-ahead word `CO|MI`, built into the sequencer (spec/30 R77). -/
def lookupWord : Nat := 0x08100

/-- The FETCH word `RO|II|CE`, built into the sequencer (spec/30 R77). -/
def fetchWord : Nat := 0x02090

/-- The set of lines a natural names: line `L` is asserted iff bit `k(L)` is 1 (spec/30 R73, the spec's numbering D2,
entry 8). Bits 18 and above name no line. -/
def ControlWord.ofNat (w : Nat) : ControlWord where
  ai := w.testBit 0
  ao := w.testBit 1
  bi := w.testBit 2
  bo := w.testBit 3
  ii := w.testBit 4
  io := w.testBit 5
  ri := w.testBit 6
  ro := w.testBit 7
  mi := w.testBit 8
  eo := w.testBit 9
  m1 := w.testBit 10
  m2 := w.testBit 11
  m3 := w.testBit 12
  ce := w.testBit 13
  ci := w.testBit 14
  co := w.testBit 15
  oi := w.testBit 16
  hlt := w.testBit 17

/-- The `CW18` natural of a set of lines: the sum of their values (spec/30 R73). -/
def ControlWord.toNat (c : ControlWord) : Nat :=
  c.ai.toNat * 0x00001 + c.ao.toNat * 0x00002 + c.bi.toNat * 0x00004 + c.bo.toNat * 0x00008 +
  c.ii.toNat * 0x00010 + c.io.toNat * 0x00020 + c.ri.toNat * 0x00040 + c.ro.toNat * 0x00080 +
  c.mi.toNat * 0x00100 + c.eo.toNat * 0x00200 + c.m1.toNat * 0x00400 + c.m2.toNat * 0x00800 +
  c.m3.toNat * 0x01000 + c.ce.toNat * 0x02000 + c.ci.toNat * 0x04000 + c.co.toNat * 0x08000 +
  c.oi.toNat * 0x10000 + c.hlt.toNat * 0x20000

/-- How many of the six driver lines `AO, BO, IO, RO, CO, EO` are asserted (spec/30 R74 (b), spec/40 R92). -/
def ControlWord.driverCount (c : ControlWord) : Nat :=
  c.ao.toNat + c.bo.toNat + c.io.toNat + c.ro.toNat + c.co.toNat + c.eo.toNat

/-- Why a natural is no well-formed control word (spec/30 R74). -/
inductive ControlWordError where
  /-- A bit above 17 is set: it names no line (R74 (a), D21). -/
  | lineAbove17
  /-- Two or more driver lines are asserted: a bus conflict (R74 (b), D7). -/
  | twoDrivers
  deriving DecidableEq, Repr

/-- The control word a ROM entry holds, or why it has none (spec/30 R74). -/
def decodeControlWord (w : Nat) : Except ControlWordError ControlWord :=
  if 2 ^ 18 ≤ w then .error .lineAbove17
  else if 2 ≤ (ControlWord.ofNat w).driverCount then .error .twoDrivers
  else .ok (ControlWord.ofNat w)

/-- The lines of a control word as rows of the opcode table, in the order of their bits: a word asserts a line iff
`word & mask = match` for that line's row (spec/30 R85). -/
def ControlWord.lines (c : ControlWord) : List Instr :=
  (if c.ai then [.ai] else []) ++ (if c.ao then [.ao] else []) ++ (if c.bi then [.bi] else []) ++
  (if c.bo then [.bo] else []) ++ (if c.ii then [.ii] else []) ++ (if c.io then [.io] else []) ++
  (if c.ri then [.ri] else []) ++ (if c.ro then [.ro] else []) ++ (if c.mi then [.mi] else []) ++
  (if c.eo then [.eo] else []) ++ (if c.m1 then [.m1] else []) ++ (if c.m2 then [.m2] else []) ++
  (if c.m3 then [.m3] else []) ++ (if c.ce then [.ce] else []) ++ (if c.ci then [.ci] else []) ++
  (if c.co then [.co] else []) ++ (if c.oi then [.oi] else []) ++ (if c.hlt then [.hltLine] else [])

/-! ## Instruction words (format `I`) -/

/-- Why a word, or a string of bytes, is no row of the table. -/
inductive DecodeError where
  /-- No byte is left to decode. -/
  | noBytes
  /-- The opcode (the bits from `H` up) is above 15, where the table has no row. Such a word is still executed by the
  machine: as its configured microcode says, or by skip-ahead (spec/44 R190). -/
  | opcodeWithoutRow
  /-- The control word is ill formed. -/
  | controlWord (e : ControlWordError)
  /-- A control word that asserts no line or several is no single row of the table. -/
  | notOneLine
  deriving DecidableEq, Repr

/-- The row of `REF` an instruction word holds at half width `h`: the opcode is the word's high half, the operand its
low half (spec/30 R70 to R72, R85; spec/45 R215, R229). -/
def decodeWord (h w : Nat) : Except DecodeError Instr :=
  match w / 2 ^ h with
  | 0 => .ok (.nop (w % 2 ^ h))
  | 1 => .ok (.lda (w % 2 ^ h))
  | 2 => .ok (.add (w % 2 ^ h))
  | 3 => .ok (.sub (w % 2 ^ h))
  | 4 => .ok (.sta (w % 2 ^ h))
  | 5 => .ok (.ldi (w % 2 ^ h))
  | 6 => .ok (.jmp (w % 2 ^ h))
  | 7 => .ok (.and (w % 2 ^ h))
  | 8 => .ok (.or (w % 2 ^ h))
  | 9 => .ok (.xor (w % 2 ^ h))
  | 10 => .ok (.tba (w % 2 ^ h))
  | 11 => .ok (.undefB (w % 2 ^ h))
  | 12 => .ok (.undefC (w % 2 ^ h))
  | 13 => .ok (.undefD (w % 2 ^ h))
  | 14 => .ok (.out (w % 2 ^ h))
  | 15 => .ok (.hlt (w % 2 ^ h))
  | _ => .error .opcodeWithoutRow

/-- Decode the first instruction word of a string of bytes at the reference width `N = 8`, where a word is a byte, and
give the rest back. -/
def decodeBytes : List (BitVec 8) → Except DecodeError (Instr × List (BitVec 8))
  | [] => .error .noBytes
  | b :: rest =>
    match decodeWord 4 b.toNat with
    | .ok i => .ok (i, rest)
    | .error e => .error e

/-- The control line that a control word with exactly one line names. -/
def decodeLine (w : Nat) : Except DecodeError Instr :=
  match decodeControlWord w with
  | .error e => .error (.controlWord e)
  | .ok c =>
    match c.lines with
    | [i] => .ok i
    | _ => .error .notOneLine

/-! ## Encoding -/

/-- Where a row's word stands: an instruction word in RAM, or a control word in the ROM or built into the sequencer. -/
inductive WordFormat where
  | instruction
  | control
  deriving DecidableEq, Repr

/-- The word of a row at half width `h` and its format (spec/30 R70, R73, R77, R83, R85). A `SEQ` row's word is the
control word the sequencer asserts; it is selected by `UPC`, not by these bits. -/
def encodeAt (h : Nat) : Instr → WordFormat × Nat
  | .ai => (.control, 0x00001)
  | .ao => (.control, 0x00002)
  | .bi => (.control, 0x00004)
  | .bo => (.control, 0x00008)
  | .ii => (.control, 0x00010)
  | .io => (.control, 0x00020)
  | .ri => (.control, 0x00040)
  | .ro => (.control, 0x00080)
  | .mi => (.control, 0x00100)
  | .eo => (.control, 0x00200)
  | .m1 => (.control, 0x00400)
  | .m2 => (.control, 0x00800)
  | .m3 => (.control, 0x01000)
  | .ce => (.control, 0x02000)
  | .ci => (.control, 0x04000)
  | .co => (.control, 0x08000)
  | .oi => (.control, 0x10000)
  | .hltLine => (.control, 0x20000)
  | .lookup => (.control, lookupWord)
  | .fetch => (.control, fetchWord)
  | .skipAhead => (.control, lookupWord)
  | .nop n => (.instruction, 0 * 2 ^ h + n)
  | .lda n => (.instruction, 1 * 2 ^ h + n)
  | .add n => (.instruction, 2 * 2 ^ h + n)
  | .sub n => (.instruction, 3 * 2 ^ h + n)
  | .sta n => (.instruction, 4 * 2 ^ h + n)
  | .ldi n => (.instruction, 5 * 2 ^ h + n)
  | .jmp n => (.instruction, 6 * 2 ^ h + n)
  | .and n => (.instruction, 7 * 2 ^ h + n)
  | .or n => (.instruction, 8 * 2 ^ h + n)
  | .xor n => (.instruction, 9 * 2 ^ h + n)
  | .tba n => (.instruction, 10 * 2 ^ h + n)
  | .undefB n => (.instruction, 11 * 2 ^ h + n)
  | .undefC n => (.instruction, 12 * 2 ^ h + n)
  | .undefD n => (.instruction, 13 * 2 ^ h + n)
  | .out n => (.instruction, 14 * 2 ^ h + n)
  | .hlt n => (.instruction, 15 * 2 ^ h + n)

/-- The word of a row at the reference width. -/
def encode (i : Instr) : WordFormat × Nat := encodeAt 4 i

/-- Read back a word in its format at half width `h`. -/
def decodeAt (h : Nat) : WordFormat → Nat → Except DecodeError Instr
  | .instruction, w => decodeWord h w
  | .control, w => decodeLine w

/-! ## The opcode table's own numbering -/

/-- Which format a word of the opcode table is in, told by how many bits the table gives its row (entry 21). A row of
more than 8 bits is a control line. Among rows of at most 8 bits the two formats overlap: the table's words 0x01, 0x02,
0x04 and 0x08 are the lines `AI`, `AO`, `BI`, `BO` (the table's `I` words have operand 0), and every other word is read
as an instruction word of RAM. -/
def tableFormat (nbits w : Nat) : WordFormat :=
  if 8 < nbits then .control
  else if w = 1 ∨ w = 2 ∨ w = 4 ∨ w = 8 then .control
  else .instruction

/-- The row that a word of the opcode table decodes to at `N = 8`, its bits numbered as the table numbers them. -/
def decodeTableWord (nbits w : Nat) : Option Instr :=
  match decodeAt 4 (tableFormat nbits w) w with
  | .ok i => some i
  | .error _ => none

end Sys2Proof
end

