-- ==== Sys2Proof/Machine/Reference.lean ====
section
/-! DEFINITION. Machine/Reference.lean: the spec's reference values of the two tables that are configuration:
`REF`, the reference microcode table (spec/45 R215, D11, entry 18), and the reference `ALU_MODE_MAP`
(spec/30 R76, D3, entry 9). -/
namespace Sys2Proof.Machine

/-! ## The microcode lists of `REF`, as `CW18` naturals (spec/45 R215) -/

/-- `[]` (spec/45 R216). -/
def refNop : List Nat := []
/-- `[IO|MI, RO|AI]` (spec/45 R217). -/
def refLda : List Nat := [0x00120, 0x00081]
/-- `[IO|MI, RO|BI, EO|M1|M2|AI]` (spec/45 R218). -/
def refAdd : List Nat := [0x00120, 0x00084, 0x00E01]
/-- `[IO|MI, RO|BI, EO|M3|AI]` (spec/45 R219). -/
def refSub : List Nat := [0x00120, 0x00084, 0x01201]
/-- `[IO|MI, AO|RI]` (spec/45 R220). -/
def refSta : List Nat := [0x00120, 0x00042]
/-- `[IO|AI]` (spec/45 R221). -/
def refLdi : List Nat := [0x00021]
/-- `[IO|CI]` (spec/45 R222). -/
def refJmp : List Nat := [0x04020]
/-- `[IO|MI, RO|BI, EO|AI]` (spec/45 R223). -/
def refAnd : List Nat := [0x00120, 0x00084, 0x00201]
/-- `[IO|MI, RO|BI, EO|M1|AI]` (spec/45 R224). -/
def refOr : List Nat := [0x00120, 0x00084, 0x00601]
/-- `[IO|MI, RO|BI, EO|M2|AI]` (spec/45 R225). -/
def refXor : List Nat := [0x00120, 0x00084, 0x00A01]
/-- `[BO|AI]` (spec/45 R226). -/
def refTba : List Nat := [0x00009]
/-- `[AO|OI]` (spec/45 R227). -/
def refOut : List Nat := [0x10002]
/-- `[HLT]` (spec/45 R228). -/
def refHlt : List Nat := [0x20000]

/-- `REF`, complete: opcodes `0xB`, `0xC`, `0xD` are no keys (spec/45 R215, R229). -/
def refMicrocode : List (Nat × List Nat) :=
  [(0x0, refNop), (0x1, refLda), (0x2, refAdd), (0x3, refSub), (0x4, refSta), (0x5, refLdi), (0x6, refJmp),
   (0x7, refAnd), (0x8, refOr), (0x9, refXor), (0xA, refTba), (0xE, refOut), (0xF, refHlt)]

/-- The reference `ALU_MODE_MAP`: codes 5, 6 and 7 have no entry and default to SUBTRACT (spec/30 R76). -/
def refAluModeMap : List (Nat × AluOp) :=
  [(0, .and), (1, .or), (2, .xor), (3, .add), (4, .sub)]

end Sys2Proof.Machine
end

