-- ==== Sys2Proof/Machine/State.lean ====
section
/-! DEFINITION. Machine/State.lean: the state of a vcomputer CORE (spec/10), the ways a step can stop (spec/60 R245),
and the state after reset (spec/10 R36). -/
namespace Sys2Proof.Machine

/-- The optional output register (spec/10 R33, spec/41 R138): the last value received, and every value received, oldest
first. -/
structure OutReg (n : Nat) where
  /-- `OUT.value`, `N` bits. -/
  value : Word n
  /-- `OUT.trace`, the machine's only output. -/
  trace : List (Word n)
  deriving DecidableEq, Repr

/-- The machine's own state at bit width `n`, the tuple `(BUS, A, B, IR, PC, MAR, MEM, UPC, CW, HALT, OUT)` of
spec/10 R20. Only a tick changes it. -/
structure CoreState (n : Nat) where
  /-- `BUS`, `N` boolean lines; storage, not a wire (spec/10 R21). -/
  bus : Word n
  /-- `A`, a general register (spec/10 R22). -/
  a : Word n
  /-- `B`, a general register (spec/10 R23). -/
  b : Word n
  /-- `IR`, the instruction register; it holds the whole word (spec/10 R24). -/
  ir : Word n
  /-- `PC`, the program counter, a word address (spec/10 R25). -/
  pc : Word n
  /-- `MAR`, the RAM's address register (spec/10 R26). -/
  mar : Word n
  /-- `MEM`, `2^N` words of `N` bits (spec/10 R27), as the list of the words that are not 0, by strictly rising address;
  an unlisted word reads as 0 (entry 6). At `N = 8` an entry is a `Host.Cell`. -/
  mem : List (Nat × Word n)
  /-- `UPC`, the micro-step pointer: 0 LOOKUP, 1 FETCH, `2 + k` EXECUTE micro-step `k` (spec/10 R28). -/
  upc : Nat
  /-- `CW`, the control word in force: the property each line toggles on its component (spec/10 R29). -/
  cw : ControlWord
  /-- `HALT`, the scheduler's sticky flag (spec/10 R30). -/
  halt : Bool
  /-- `OUT`, present when `HAS_OUT` (spec/10 R33, spec/00 R10, entry 16). -/
  out : Option (OutReg n)
  deriving DecidableEq, Repr

/-- The state of the tick source, owned by the host's side of the clock and not by any tick (spec/10 R34). -/
structure Clock where
  /-- `ENABLED`: when false the periodic timer's ticks are suppressed. -/
  enabled : Bool
  /-- `INTERVAL`, in time units. -/
  interval : Nat
  /-- `BUSY`: a tick is executing. -/
  busy : Bool
  deriving DecidableEq, Repr

/-- A vcomputer CORE: its bit width `N` and its configuration, fixed at construction (spec/10 R35, entries 2 and 3),
its state (spec/10 R20) and its tick source (spec/10 R34). -/
structure State where
  /-- `N`, the bit width (spec/00 R7). -/
  width : Nat
  /-- `MICROCODE`, `ALU_MODE_MAP` and the interval bounds (spec/10 R35). -/
  cfg : Config
  /-- The machine's own state. -/
  core : CoreState width
  /-- The tick source. -/
  clock : Clock
  deriving DecidableEq, Repr

/-- Why the machine stops with a fault. -/
inductive Fault where
  /-- The micro-step index `UPC - 2` is past the end of the opcode's non-empty list (spec/44 R196, D9, entry 12). Raised by
  an EXECUTE tick. SAFE: VC7 says nothing of this case and the spec gives it no control word; no machine whose table
  meets spec/30 R80 reaches it. -/
  | microIndexPastEnd
  deriving DecidableEq, Repr

/-- Why the machine gives an instruction no meaning. -/
inductive Refusal where
  /-- The instruction has no meaning in the model yet. Raised by an arm of `exec` only. SAFE: nothing is claimed of it. -/
  | notModelled (mnemonic : String)
  /-- The tick's control word asserts two or more driver lines (spec/30 R74 (b), spec/40 R92, D7, entry 10). Raised by an
  EXECUTE tick of a configured table. SAFE: the spec gives such a word no meaning. -/
  | busConflict
  /-- The tick's control word has a bit above 17 set, which names no line (spec/30 R74 (a), D21, entry 11). Raised by an
  EXECUTE tick of a configured table. SAFE: the spec refuses such a word. -/
  | unnamedLine
  deriving DecidableEq, Repr

/-- The machine's own state right after construction, before the image is loaded (spec/10 R36): `UPC` is 0 by VC7, the
rest is the spec's decision D4 (entry 4); the output register, if fitted, is empty (D20). -/
def CoreState.blank (n : Nat) (hasOut : Bool) : CoreState n where
  bus := 0
  a := 0
  b := 0
  ir := 0
  pc := 0
  mar := 0
  mem := []
  upc := 0
  cw := ControlWord.empty
  halt := false
  out := if hasOut then some { value := 0, trace := [] } else none

/-- The machine right after reset (spec/10 R36, spec/70 R267) at the spec's reference configuration: `N = 8` (D1, entry 2),
`REF` (D11, entry 18), the reference `ALU_MODE_MAP` (D3, entry 9), the output register fitted (entry 16) and the empty
image. The tick source's `ENABLED` and `INTERVAL` are open (D16); the values here are entry 5's. -/
def State.reset : State where
  width := 8
  cfg :=
    { microcode := refMicrocode
      aluModeMap := refAluModeMap
      intervalMin := 1
      intervalMax := 10000 }
  core := CoreState.blank 8 true
  clock := { enabled := true, interval := 1, busy := false }

end Sys2Proof.Machine
end

