-- ==== Sys2Proof/Machine/Ops.lean ====
section
/-! DEFINITION. Machine/Ops.lean: the named operations over memory, the output register and the state.

TAKING AN EXCEPTION AND RETURNING FROM ONE. This machine has neither: "No tick raises anything" (spec/60 R244), nothing is
saved on any event, there is no vector, no handler address, no mode (spec/60 R249, R252), and "There is no trap return
instruction" (spec/60 R250). So no operation here takes an exception (entry 25). The three stops of spec/60 R245 are
outcomes of the model, not events of the machine. -/
namespace Sys2Proof.Machine

/-! ## Writing one element of the machine's state: `X <- v` (spec/00 R17) -/

/-- `BUS <- v`. -/
def CoreState.setBus {n : Nat} (m : CoreState n) (v : Word n) : CoreState n := { m with bus := v }

/-- `A <- v`. -/
def CoreState.setA {n : Nat} (m : CoreState n) (v : Word n) : CoreState n := { m with a := v }

/-- `B <- v`. -/
def CoreState.setB {n : Nat} (m : CoreState n) (v : Word n) : CoreState n := { m with b := v }

/-- `IR <- v`. -/
def CoreState.setIr {n : Nat} (m : CoreState n) (v : Word n) : CoreState n := { m with ir := v }

/-- `PC <- v`. -/
def CoreState.setPc {n : Nat} (m : CoreState n) (v : Word n) : CoreState n := { m with pc := v }

/-- `MAR <- v`. -/
def CoreState.setMar {n : Nat} (m : CoreState n) (v : Word n) : CoreState n := { m with mar := v }

/-- `MEM <- v`. -/
def CoreState.setMem {n : Nat} (m : CoreState n) (v : List (Nat × Word n)) : CoreState n := { m with mem := v }

/-- `UPC <- v`. -/
def CoreState.setUpc {n : Nat} (m : CoreState n) (v : Nat) : CoreState n := { m with upc := v }

/-- `CW <- v`. -/
def CoreState.setCw {n : Nat} (m : CoreState n) (v : ControlWord) : CoreState n := { m with cw := v }

/-- `HALT <- v`. -/
def CoreState.setHalt {n : Nat} (m : CoreState n) (v : Bool) : CoreState n := { m with halt := v }

/-- `OUT <- v`. -/
def CoreState.setOut {n : Nat} (m : CoreState n) (v : Option (OutReg n)) : CoreState n := { m with out := v }

/-! ## Writing one element of the tick source (spec/10 R34) -/

/-- `ENABLED <- b`. -/
def State.setEnabled (s : State) (b : Bool) : State := { s with clock := { s.clock with enabled := b } }

/-- `INTERVAL <- t`. -/
def State.setInterval (s : State) (t : Nat) : State := { s with clock := { s.clock with interval := t } }

/-- `BUSY <- b`. -/
def State.setBusy (s : State) (b : Bool) : State := { s with clock := { s.clock with busy := b } }

/-- The machine's own state replaced; width, configuration and tick source stay. -/
def State.setCore (s : State) (m : CoreState s.width) : State := { s with core := m }

/-! ## Memory (spec/20 R53): the list of the words that are not 0, by strictly rising address -/

/-- `MemRead(a, 1)`: the word at address `a`; an unlisted word reads as 0 (spec/20 R53, spec/42 R152, entry 6). -/
def memRead {n : Nat} : List (Nat × Word n) → Nat → Word n
  | [], _ => 0
  | (b, u) :: rest, a => if a = b then u else memRead rest a

/-- The memory without an entry for address `a`: that word reads as 0. -/
def memErase {n : Nat} : List (Nat × Word n) → Nat → List (Nat × Word n)
  | [], _ => []
  | (b, u) :: rest, a => if a = b then memErase rest a else (b, u) :: memErase rest a

/-- Put an entry in front of the first one with a larger address. -/
def memInsert {n : Nat} : List (Nat × Word n) → Nat → Word n → List (Nat × Word n)
  | [], a, v => [(a, v)]
  | (b, u) :: rest, a, v => if a < b then (a, v) :: (b, u) :: rest else (b, u) :: memInsert rest a v

/-- `MemWrite(a, 1, v)`: `MEM[a] <- v`, every other word unchanged (spec/20 R53). Writing 0 removes the entry. -/
def memWrite {n : Nat} (mem : List (Nat × Word n)) (a : Nat) (v : Word n) : List (Nat × Word n) :=
  if v = 0 then memErase mem a else memInsert (memErase mem a) a v

/-- Every address of the list is above `lo`, below `2^n` and rising, and no entry is 0. -/
def memWfAbove {n : Nat} (lo : Nat) : List (Nat × Word n) → Bool
  | [] => true
  | (b, u) :: rest => decide (lo ≤ b) && decide (b < 2 ^ n) && decide (u ≠ 0) && memWfAbove (b + 1) rest

/-- The canonical form of memory: addresses strictly rising, each one of the `2^n` words (spec/20 R51), no entry equal to
what an unlisted word reads as. -/
def memWf {n : Nat} (mem : List (Nat × Word n)) : Bool := memWfAbove 0 mem

/-! ## The output register (spec/10 R33) -/

/-- `emit(OUT, v)`: `OUT.value <- v` and `v` is appended to `OUT.trace`. -/
def OutReg.emit {n : Nat} (o : OutReg n) (v : Word n) : OutReg n :=
  { value := v, trace := o.trace ++ [v] }

/-! ## Outcomes -/

/-- The outcome of a step of the machine's own state, as an outcome of the whole state: width, configuration and tick
source stay as they are (spec/10 R20, R35). -/
def State.withOutcome (s : State) (o : Host.Outcome (CoreState s.width) Fault Refusal) :
    Host.Outcome State Fault Refusal :=
  match o with
  | .next m => .next (s.setCore m)
  | .fault f => .fault f
  | .refused r => .refused r

end Sys2Proof.Machine
end

