-- ==== Sys2Proof/Machine/Operands.lean ====
section
/-! DEFINITION. Machine/Operands.lean: the fields of a word (spec/00 R16, spec/30 R70 to R72), the ALU mode code of a
control word (spec/30 R75), and VC7's boolean vectors (spec/00 R15). -/
namespace Sys2Proof.Machine

/-- `hi(v) = v div 2^H`, the opcode of an instruction word (spec/00 R16, spec/30 R71, spec/41 R127). -/
def hiHalf {n : Nat} (v : Word n) : Nat := v.toNat / 2 ^ (n / 2)

/-- `lo(v) = v mod 2^H`, the operand of an instruction word (spec/00 R16, spec/30 R72). -/
def loHalf {n : Nat} (v : Word n) : Nat := v.toNat % 2 ^ (n / 2)

/-- `zext_N(lo(v))`: what the instruction register drives, its high half suppressed (spec/30 R72, spec/41 R126). -/
def operandWord {n : Nat} (v : Word n) : Word n := BitVec.ofNat n (loHalf v)

/-- The instruction word `opcode * 2^H + operand` (spec/30 R70). -/
def instrWord (n opcode operand : Nat) : Word n := BitVec.ofNat n (opcode * 2 ^ (n / 2) + operand)

/-- The 3-bit ALU mode code of a control word, mode bit 1 the least significant (spec/30 R75, D3, entry 9). -/
def modeCode (c : ControlWord) : Nat := c.m1.toNat + 2 * c.m2.toNat + 4 * c.m3.toNat

/-! ## Boolean vectors, index 0 the most significant bit (spec/00 R15) -/

/-- `to_int(v)`: the sum over the indices `i` of `2^(W-1-i)` where `v[i]` is true. -/
def toInt : List Bool → Nat
  | [] => 0
  | b :: rest => b.toNat * 2 ^ rest.length + toInt rest

/-- `from_int(k, W)`: the vector whose index `i` is `(k div 2^(W-1-i)) mod 2 = 1`. Being built from `k` alone it reduces
`k` modulo `2^W`; the modulus is the mathematical one, so a negative `k` wraps (spec/00 R15, D10, entry 22). -/
def fromInt (k : Int) : Nat → List Bool
  | 0 => []
  | w + 1 => decide (k / 2 ^ w % 2 = 1) :: fromInt k w

/-- A word as VC7's boolean vector. -/
def wordVector {n : Nat} (v : Word n) : List Bool := fromInt v.toNat n

end Sys2Proof.Machine
end

