-- ==== Sys2Proof/Machine/Flags.lean ====
section
/-! DEFINITION. Machine/Flags.lean: the machine has no status flag (spec/10 R31, spec/43 R175), so no instruction computes
one. What an adder would set a carry flag from, the final carry of the ripple chain, is computed here and stored nowhere. -/
namespace Sys2Proof.Machine

/-- The ripple-carry loop of the ALU after `j` bit positions, from the least significant up: the carry into position `j`
and the result so far. The result starts cleared to 0. At each position `x = a xor b`, the sum bit is `x xor carry`, and the
carry out is `(a and b) or (x and carry)` (spec/43 R171). -/
def ripple {n : Nat} (a b : Word n) (carryIn : Bool) : Nat → Bool × Word n
  | 0 => (carryIn, 0)
  | j + 1 =>
    let p := ripple a b carryIn j
    let x := a.getLsbD j ^^ b.getLsbD j
    ((a.getLsbD j && b.getLsbD j) || (x && p.1),
      if x ^^ p.1 then p.2 ||| BitVec.ofNat n (2 ^ j) else p.2)

/-- The sum the loop leaves after all `n` positions. -/
def rippleSum {n : Nat} (a b : Word n) (carryIn : Bool) : Word n := (ripple a b carryIn n).2

/-- `c[N]`, the carry out of the top bit: "computed and discarded; no flag holds it" (spec/43 R171, R175). Nothing in the
machine reads it. -/
def finalCarry {n : Nat} (a b : Word n) (carryIn : Bool) : Bool := (ripple a b carryIn n).1

end Sys2Proof.Machine
end

