-- ==== Sys2Proof/Machine/Alu.lean ====
section
/-! DEFINITION. Machine/Alu.lean: the ALU (spec/43), a driver of the bus gated by `EO` whose operation the mode lines
`M1 M2 M3` of the same control word choose. -/
namespace Sys2Proof.Machine

/-- The operation a mode code selects; "any code not mapped to a valid mode defaults to SUBTRACT" (spec/43 R166, R173). -/
def aluOpOf (map : List (Nat × AluOp)) (code : Nat) : AluOp := (map.lookup code).getD .sub

/-- One operation of the ALU. AND, OR and XOR are bitwise (spec/43 R168 to R170); ADD is the ripple-carry loop with carry-in
false (R171); SUBTRACT is the loop over `a` and the complement of `b` with carry-in true (R172). -/
def aluResult {n : Nat} (op : AluOp) (a b : Word n) : Word n :=
  match op with
  | .and => a &&& b
  | .or => a ||| b
  | .xor => a ^^^ b
  | .add => rippleSum a b false
  | .sub => rippleSum a (~~~b) true

/-- `alu(code, a, b)` (spec/43 R167). -/
def alu {n : Nat} (map : List (Nat × AluOp)) (code : Nat) (a b : Word n) : Word n :=
  aluResult (aluOpOf map code) a b

/-- The ALU's action of the WRITE band: `if EO in CW: BUS <- alu(code(CW), A, B)`. It reads `A` and `B` directly and the
mode bits live (spec/43 R165 to R167). -/
def CoreState.driveAlu {n : Nat} (map : List (Nat × AluOp)) (m : CoreState n) : CoreState n :=
  if m.cw.eo then m.setBus (alu map (modeCode m.cw) m.a m.b) else m

/-- `EO`, alu-out (spec/43 R167). -/
def execEo (s : State) : Host.Outcome State Fault Refusal :=
  .next (s.setCore (s.core.driveAlu s.cfg.aluModeMap))

/-- `M1`, alu-mode-bit-1: a property of the ALU that `EO` samples in the same tick; it has no action of its own, "`M1`,
`M2`, `M3` without `EO` do nothing at all" (spec/43 R166, R167, entry 20). -/
def execM1 (s : State) : Host.Outcome State Fault Refusal := .next s

/-- `M2`, alu-mode-bit-2: as `M1` (spec/43 R166, R167). -/
def execM2 (s : State) : Host.Outcome State Fault Refusal := .next s

/-- `M3`, alu-mode-bit-3: as `M1` (spec/43 R166, R167). -/
def execM3 (s : State) : Host.Outcome State Fault Refusal := .next s

end Sys2Proof.Machine
end

