-- ==== Sys2Proof/Machine/Ram.lean ====
section
/-! DEFINITION. Machine/Ram.lean: the RAM and its address controller (spec/42). The current address is `MAR` at the moment the
action runs (R150): a read is in the WRITE band, before the address capture of the MID band; a write is in the READ band,
after it (R154, R155, C1). -/
namespace Sys2Proof.Machine

/-- `if MI in CW: MAR <- BUS` (spec/42 R151). -/
def CoreState.captureMar {n : Nat} (m : CoreState n) : CoreState n :=
  if m.cw.mi then m.setMar m.bus else m

/-- `if RO in CW: BUS <- MemRead(MAR, 1)` (spec/42 R152). -/
def CoreState.driveRam {n : Nat} (m : CoreState n) : CoreState n :=
  if m.cw.ro then m.setBus (memRead m.mem m.mar.toNat) else m

/-- `if RI in CW: MemWrite(MAR, 1, BUS)` (spec/42 R153). -/
def CoreState.captureRam {n : Nat} (m : CoreState n) : CoreState n :=
  if m.cw.ri then m.setMem (memWrite m.mem m.mar.toNat m.bus) else m

/-- `MI`, memory-address-in (spec/42 R151). -/
def execMi (s : State) : Host.Outcome State Fault Refusal := .next (s.setCore s.core.captureMar)

/-- `RO`, ram-out: the memory read (spec/42 R152). -/
def execRo (s : State) : Host.Outcome State Fault Refusal := .next (s.setCore s.core.driveRam)

/-- `RI`, ram-in: the memory write (spec/42 R153). -/
def execRi (s : State) : Host.Outcome State Fault Refusal := .next (s.setCore s.core.captureRam)

end Sys2Proof.Machine
end

