-- ==== Sys2Proof/Machine/Registers.lean ====
section
/-! DEFINITION. Machine/Registers.lean: registers `A` and `B`, the instruction register, the program counter and the output
register (spec/41). Each component registers one action per line, invoked once every tick; "an action whose flag is not in
`CW` does nothing" (spec/40 R95). A drive copies a value onto the bus (WRITE band); a capture copies the bus into the
component (READ band); the counter's increment is in the MID band. -/
namespace Sys2Proof.Machine

/-! ## Register A (spec/41 R121, R122) -/

/-- `if AI in CW: A <- BUS`. -/
def CoreState.captureA {n : Nat} (m : CoreState n) : CoreState n :=
  if m.cw.ai then m.setA m.bus else m

/-- `if AO in CW: BUS <- A`. -/
def CoreState.driveA {n : Nat} (m : CoreState n) : CoreState n :=
  if m.cw.ao then m.setBus m.a else m

/-- `AI`, register-A-in (spec/41 R121). -/
def execAi (s : State) : Host.Outcome State Fault Refusal := .next (s.setCore s.core.captureA)

/-- `AO`, register-A-out (spec/41 R122). -/
def execAo (s : State) : Host.Outcome State Fault Refusal := .next (s.setCore s.core.driveA)

/-! ## Register B (spec/41 R123, R124) -/

/-- `if BI in CW: B <- BUS`. -/
def CoreState.captureB {n : Nat} (m : CoreState n) : CoreState n :=
  if m.cw.bi then m.setB m.bus else m

/-- `if BO in CW: BUS <- B`. -/
def CoreState.driveB {n : Nat} (m : CoreState n) : CoreState n :=
  if m.cw.bo then m.setBus m.b else m

/-- `BI`, register-B-in (spec/41 R123). -/
def execBi (s : State) : Host.Outcome State Fault Refusal := .next (s.setCore s.core.captureB)

/-- `BO`, register-B-out (spec/41 R124). -/
def execBo (s : State) : Host.Outcome State Fault Refusal := .next (s.setCore s.core.driveB)

/-! ## The instruction register (spec/41 R125, R126) -/

/-- `if II in CW: IR <- BUS`, all `N` bits. -/
def CoreState.captureIr {n : Nat} (m : CoreState n) : CoreState n :=
  if m.cw.ii then m.setIr m.bus else m

/-- `if IO in CW: BUS <- zext_N(lo(IR))`: the opcode half is suppressed; `IR` itself keeps it. -/
def CoreState.driveIr {n : Nat} (m : CoreState n) : CoreState n :=
  if m.cw.io then m.setBus (operandWord m.ir) else m

/-- `II`, instruction-reg-in (spec/41 R125). -/
def execIi (s : State) : Host.Outcome State Fault Refusal := .next (s.setCore s.core.captureIr)

/-- `IO`, instruction-reg-out (spec/41 R126). -/
def execIo (s : State) : Host.Outcome State Fault Refusal := .next (s.setCore s.core.driveIr)

/-! ## The program counter (spec/41 R130 to R133) -/

/-- `if CE in CW: PC <- (PC + 1) mod 2^N`; the top address wraps to 0 (D5, entry 13). -/
def CoreState.incrementPc {n : Nat} (m : CoreState n) : CoreState n :=
  if m.cw.ce then m.setPc (m.pc + 1) else m

/-- `if CI in CW: PC <- BUS`, the machine's only control transfer. -/
def CoreState.capturePc {n : Nat} (m : CoreState n) : CoreState n :=
  if m.cw.ci then m.setPc m.bus else m

/-- `if CO in CW: BUS <- PC`. -/
def CoreState.drivePc {n : Nat} (m : CoreState n) : CoreState n :=
  if m.cw.co then m.setBus m.pc else m

/-- `CE`, counter-enable (spec/41 R131). -/
def execCe (s : State) : Host.Outcome State Fault Refusal := .next (s.setCore s.core.incrementPc)

/-- `CI`, counter-in (spec/41 R132). -/
def execCi (s : State) : Host.Outcome State Fault Refusal := .next (s.setCore s.core.capturePc)

/-- `CO`, counter-out (spec/41 R133). -/
def execCo (s : State) : Host.Outcome State Fault Refusal := .next (s.setCore s.core.drivePc)

/-! ## The output register (spec/41 R138, R139) -/

/-- `if OI in CW and HAS_OUT: emit(OUT, BUS)`; with no output register fitted the line is ignored (C3, D13). -/
def CoreState.captureOut {n : Nat} (m : CoreState n) : CoreState n :=
  if m.cw.oi then m.setOut (m.out.map (fun o => o.emit m.bus)) else m

/-- `OI`, output-reg-in (spec/41 R139). -/
def execOi (s : State) : Host.Outcome State Fault Refusal := .next (s.setCore s.core.captureOut)

end Sys2Proof.Machine
end

