-- ==== Sys2Proof/Machine/Control.lean ====
section
/-! DEFINITION. Machine/Control.lean: the control logic (spec/44) and the bands of a tick (spec/40 R94, R95, R97). -/
namespace Sys2Proof.Machine

/-! ## The CONTROL band: distributing the word -/

/-- `if HLT in CW: HALT <- true`, and never `HALT <- false` (spec/44 R194). -/
def CoreState.raiseHalt {n : Nat} (m : CoreState n) : CoreState n :=
  if m.cw.hlt then m.setHalt true else m

/-- `HLT`, the control line halt (spec/44 R194). -/
def execHltLine (s : State) : Host.Outcome State Fault Refusal := .next (s.setCore s.core.raiseHalt)

/-- The distribution of a control word: every property is set to whether its line is in the word, and the halt flag is set
if `HLT` is (spec/44 R192 to R194). -/
def CoreState.controlBand {n : Nat} (w : ControlWord) (m : CoreState n) : CoreState n :=
  (m.setCw w).raiseHalt

/-! ## The component bands, in the order of spec/40 R97. The two reserved bands hold no action (R94). -/

/-- The WRITE band: the six drives. At most one acts under a well-formed word (spec/40 R92). -/
def CoreState.writeBand {n : Nat} (map : List (Nat × AluOp)) (m : CoreState n) : CoreState n :=
  ((((m.driveA).driveB).driveIr).drivePc).driveRam.driveAlu map

/-- The MID band: the address capture and the counter's increment. -/
def CoreState.midBand {n : Nat} (m : CoreState n) : CoreState n := (m.captureMar).incrementPc

/-- The READ band: the six captures; the counter's comes after its increment. -/
def CoreState.readBand {n : Nat} (m : CoreState n) : CoreState n :=
  (((((m.captureA).captureB).captureIr).captureRam).capturePc).captureOut

/-- The bands of one tick under a given control word (spec/40 R97). A word with `HLT` runs its other bands to the end
(R98, D8, entry 15). -/
def CoreState.runWord {n : Nat} (map : List (Nat × AluOp)) (w : ControlWord) (m : CoreState n) : CoreState n :=
  (((m.controlBand w).writeBand map).midBand).readBand

/-- One tick under a control word of the ROM, or the refusal of an ill-formed one (spec/30 R74, spec/60 R245 (a) and (b)). -/
def CoreState.assertWord {n : Nat} (map : List (Nat × AluOp)) (w : Nat) (m : CoreState n) :
    Host.Outcome (CoreState n) Fault Refusal :=
  match decodeControlWord w with
  | .ok c => .next (m.runWord map c)
  | .error .lineAbove17 => .refused .unnamedLine
  | .error .twoDrivers => .refused .busConflict

/-! ## The sequencer (spec/44 R186) -/

/-- What the control logic chooses in a tick. -/
inductive SeqResult where
  /-- The control word to assert, as the ROM holds it, and the new pointer. -/
  | asserts (word : Nat) (upc : Nat)
  /-- The index is past the end of the list (spec/44 R196). -/
  | pastEnd
  deriving DecidableEq, Repr

/-- EXECUTE with the opcode's entry in the table, at micro-step index `k`: an undefined or empty opcode skips ahead
(spec/44 R190); otherwise the list's word `k`, and the pointer goes back to 0 after the last one (R189, R191). -/
def executeEntry (entry : Option (List Nat)) (k : Nat) : SeqResult :=
  match entry with
  | none => .asserts lookupWord 1
  | some [] => .asserts lookupWord 1
  | some (w :: rest) =>
    match (w :: rest)[k]? with
    | none => .pastEnd
    | some word => .asserts word (if k + 1 = (w :: rest).length then 0 else k + 3)

/-- The control logic's step, `seq(UPC, IR, MICROCODE)` (spec/44 R186). -/
def seq {n : Nat} (upc : Nat) (ir : Word n) (microcode : List (Nat × List Nat)) : SeqResult :=
  match upc with
  | 0 => .asserts lookupWord 1
  | 1 => .asserts fetchWord 2
  | k + 2 => executeEntry (microcode.lookup (hiHalf ir)) k

/-- The rest of a tick once the control logic has chosen: the pointer moves in the CONTROL band (spec/44 R186, C4), then
the word acts. -/
def CoreState.follow {n : Nat} (map : List (Nat × AluOp)) (r : SeqResult) (m : CoreState n) :
    Host.Outcome (CoreState n) Fault Refusal :=
  match r with
  | .asserts word upc => (m.setUpc upc).assertWord map word
  | .pastEnd => .fault .microIndexPastEnd

/-- The tick as spec/40 R97 writes it, over the whole of `MICROCODE`: a halted machine returns at entry (R98). `step`
(Machine/Step.lean) is this tick dispatched through `exec`. -/
def CoreState.tick {n : Nat} (cfg : Config) (m : CoreState n) : Host.Outcome (CoreState n) Fault Refusal :=
  if m.halt then .next m else m.follow cfg.aluModeMap (seq m.upc m.ir cfg.microcode)

/-! ## The sequencer's rows -/

/-- LOOKUP, pointer 0: `BUS <- PC`, `MAR <- PC`, `UPC <- 1` (spec/44 R187). -/
def execLookup (s : State) : Host.Outcome State Fault Refusal :=
  s.withOutcome (s.core.follow s.cfg.aluModeMap (.asserts lookupWord 1))

/-- FETCH, pointer 1: `BUS <- MEM[MAR]`, `PC <- PC + 1`, `IR <- BUS`, `UPC <- 2` (spec/44 R188). -/
def execFetch (s : State) : Host.Outcome State Fault Refusal :=
  s.withOutcome (s.core.follow s.cfg.aluModeMap (.asserts fetchWord 2))

/-- SKIP-AHEAD, pointer 2 or more with an undefined or empty opcode: the LOOKUP of the next instruction (spec/44 R190). -/
def execSkipAhead (s : State) : Host.Outcome State Fault Refusal :=
  s.withOutcome (s.core.follow s.cfg.aluModeMap (executeEntry none (s.core.upc - 2)))

/-- EXECUTE of an opcode whose configured list is not `REF`'s (spec/44 R189). -/
def executeConfigured (list : List Nat) (s : State) : Host.Outcome State Fault Refusal :=
  s.withOutcome (s.core.follow s.cfg.aluModeMap (executeEntry (some list) (s.core.upc - 2)))

/-! ## Selecting the row a tick runs -/

/-- What the next tick of a machine that is not halted runs. -/
inductive Selected where
  /-- A row of the opcode table. -/
  | row (i : Instr)
  /-- An opcode whose configured list is not the one `REF` gives it. -/
  | configured (list : List Nat)
  deriving DecidableEq, Repr

/-- EXECUTE: an opcode that `MICROCODE` treats as `REF` does is the `REF` row the word in `IR` decodes to (spec/45 R215);
any other is a skip-ahead if undefined or empty (spec/44 R190), else its configured list (entry 18). -/
def selectExecute {n : Nat} (microcode : List (Nat × List Nat)) (ir : Word n) : Selected :=
  let entry := microcode.lookup (hiHalf ir)
  let other : Selected :=
    match entry with
    | none => .row .skipAhead
    | some [] => .row .skipAhead
    | some (w :: rest) => .configured (w :: rest)
  if entry = refMicrocode.lookup (hiHalf ir) then
    match decodeWord (n / 2) ir.toNat with
    | .ok i => .row i
    | .error _ => other
  else other

/-- The row the pointer selects: 0 LOOKUP, 1 FETCH, above EXECUTE (spec/44 R186). -/
def select {n : Nat} (microcode : List (Nat × List Nat)) (m : CoreState n) : Selected :=
  match m.upc with
  | 0 => .row .lookup
  | 1 => .row .fetch
  | _ + 2 => selectExecute microcode m.ir

end Sys2Proof.Machine
end

