-- ==== Sys2Proof/Machine/RefInstr.lean ====
section
/-! DEFINITION. Machine/RefInstr.lean: the instructions of the reference table `REF` (spec/45). The machine's step is the tick
(spec/40 R97), so the meaning of an instruction is what one EXECUTE tick does while `IR` holds its word: the control word of
its microcode list at index `UPC - 2` acts, and `UPC` moves on or back to 0 (spec/44 R189, R191, entries 1 and 19). LOOKUP
and FETCH, which bring the word into `IR`, are rows of their own (Machine/Control.lean). -/
namespace Sys2Proof.Machine

/-- The instruction word in `IR`. Where `IR` holds it already, as in every tick that `step` runs, nothing changes
(entry 19). -/
def CoreState.holding {n : Nat} (m : CoreState n) (opcode operand : Nat) : CoreState n :=
  m.setIr (instrWord n opcode operand)

/-- One EXECUTE tick of the instruction with this opcode, operand and table entry (spec/44 R189 to R191). -/
def executeRow (opcode operand : Nat) (entry : Option (List Nat)) (s : State) : Host.Outcome State Fault Refusal :=
  s.withOutcome ((s.core.holding opcode operand).follow s.cfg.aluModeMap (executeEntry entry (s.core.upc - 2)))

/-- `NOP`, opcode `0x0`: an empty list: skip-ahead (spec/45 R216). -/
def execNop (operand : Nat) (s : State) : Host.Outcome State Fault Refusal :=
  executeRow 0x0 operand (some refNop) s

/-- `LDA n`, opcode `0x1`: `MAR <- n; A <- MEM[n]` (spec/45 R217). -/
def execLda (operand : Nat) (s : State) : Host.Outcome State Fault Refusal :=
  executeRow 0x1 operand (some refLda) s

/-- `ADD n`, opcode `0x2`: `MAR <- n; B <- MEM[n]; A <- A + B` (spec/45 R218). -/
def execAdd (operand : Nat) (s : State) : Host.Outcome State Fault Refusal :=
  executeRow 0x2 operand (some refAdd) s

/-- `SUB n`, opcode `0x3`: `MAR <- n; B <- MEM[n]; A <- A - B` (spec/45 R219). -/
def execSub (operand : Nat) (s : State) : Host.Outcome State Fault Refusal :=
  executeRow 0x3 operand (some refSub) s

/-- `STA n`, opcode `0x4`: `MAR <- n; MEM[n] <- A` (spec/45 R220). -/
def execSta (operand : Nat) (s : State) : Host.Outcome State Fault Refusal :=
  executeRow 0x4 operand (some refSta) s

/-- `LDI n`, opcode `0x5`: `A <- n` (spec/45 R221). -/
def execLdi (operand : Nat) (s : State) : Host.Outcome State Fault Refusal :=
  executeRow 0x5 operand (some refLdi) s

/-- `JMP n`, opcode `0x6`: `PC <- n` (spec/45 R222). -/
def execJmp (operand : Nat) (s : State) : Host.Outcome State Fault Refusal :=
  executeRow 0x6 operand (some refJmp) s

/-- `AND n`, opcode `0x7`: `MAR <- n; B <- MEM[n]; A <- A & B` (spec/45 R223). -/
def execAnd (operand : Nat) (s : State) : Host.Outcome State Fault Refusal :=
  executeRow 0x7 operand (some refAnd) s

/-- `OR n`, opcode `0x8`: `MAR <- n; B <- MEM[n]; A <- A | B` (spec/45 R224). -/
def execOr (operand : Nat) (s : State) : Host.Outcome State Fault Refusal :=
  executeRow 0x8 operand (some refOr) s

/-- `XOR n`, opcode `0x9`: `MAR <- n; B <- MEM[n]; A <- A ^ B` (spec/45 R225). -/
def execXor (operand : Nat) (s : State) : Host.Outcome State Fault Refusal :=
  executeRow 0x9 operand (some refXor) s

/-- `TBA`, opcode `0xA`: `A <- B` (spec/45 R226). -/
def execTba (operand : Nat) (s : State) : Host.Outcome State Fault Refusal :=
  executeRow 0xA operand (some refTba) s

/-- `OUT`, opcode `0xE`: `emit(OUT, A)` (spec/45 R227). -/
def execOut (operand : Nat) (s : State) : Host.Outcome State Fault Refusal :=
  executeRow 0xE operand (some refOut) s

/-- `HLT`, opcode `0xF`: `HALT <- true` (spec/45 R228). -/
def execHlt (operand : Nat) (s : State) : Host.Outcome State Fault Refusal :=
  executeRow 0xF operand (some refHlt) s

/-- `opcode 0xB`, opcode `0xB`: undefined: skip-ahead (spec/45 R229). -/
def execUndefB (operand : Nat) (s : State) : Host.Outcome State Fault Refusal :=
  executeRow 0xB operand none s

/-- `opcode 0xC`, opcode `0xC`: undefined: skip-ahead (spec/45 R229). -/
def execUndefC (operand : Nat) (s : State) : Host.Outcome State Fault Refusal :=
  executeRow 0xC operand none s

/-- `opcode 0xD`, opcode `0xD`: undefined: skip-ahead (spec/45 R229). -/
def execUndefD (operand : Nat) (s : State) : Host.Outcome State Fault Refusal :=
  executeRow 0xD operand none s

end Sys2Proof.Machine
end

