-- ==== Sys2Proof/Machine/Dispatch.lean ====
section
/-! DEFINITION. Machine/Dispatch.lean: the meaning of every row of the opcode table, one direct call an arm. -/
namespace Sys2Proof.Machine

def exec (i : Instr) (s : State) : Host.Outcome State Fault Refusal :=
  match i with
  -- the control lines
  | .ai => Sys2Proof.Machine.execAi s
  | .ao => Sys2Proof.Machine.execAo s
  | .bi => Sys2Proof.Machine.execBi s
  | .bo => Sys2Proof.Machine.execBo s
  | .ii => Sys2Proof.Machine.execIi s
  | .io => Sys2Proof.Machine.execIo s
  | .ri => Sys2Proof.Machine.execRi s
  | .ro => Sys2Proof.Machine.execRo s
  | .mi => Sys2Proof.Machine.execMi s
  | .eo => Sys2Proof.Machine.execEo s
  | .m1 => Sys2Proof.Machine.execM1 s
  | .m2 => Sys2Proof.Machine.execM2 s
  | .m3 => Sys2Proof.Machine.execM3 s
  | .ce => Sys2Proof.Machine.execCe s
  | .ci => Sys2Proof.Machine.execCi s
  | .co => Sys2Proof.Machine.execCo s
  | .oi => Sys2Proof.Machine.execOi s
  | .hltLine => Sys2Proof.Machine.execHltLine s
  -- the sequencer's rows
  | .lookup => Sys2Proof.Machine.execLookup s
  | .fetch => Sys2Proof.Machine.execFetch s
  | .skipAhead => Sys2Proof.Machine.execSkipAhead s
  -- the reference table REF
  | .nop n => Sys2Proof.Machine.execNop n s
  | .lda n => Sys2Proof.Machine.execLda n s
  | .add n => Sys2Proof.Machine.execAdd n s
  | .sub n => Sys2Proof.Machine.execSub n s
  | .sta n => Sys2Proof.Machine.execSta n s
  | .ldi n => Sys2Proof.Machine.execLdi n s
  | .jmp n => Sys2Proof.Machine.execJmp n s
  | .and n => Sys2Proof.Machine.execAnd n s
  | .or n => Sys2Proof.Machine.execOr n s
  | .xor n => Sys2Proof.Machine.execXor n s
  | .tba n => Sys2Proof.Machine.execTba n s
  | .out n => Sys2Proof.Machine.execOut n s
  | .hlt n => Sys2Proof.Machine.execHlt n s
  | .undefB n => Sys2Proof.Machine.execUndefB n s
  | .undefC n => Sys2Proof.Machine.execUndefC n s
  | .undefD n => Sys2Proof.Machine.execUndefD n s

end Sys2Proof.Machine
end

