-- ==== Sys2Proof/Machine/Step.lean ====
section
/-! DEFINITION. Machine/Step.lean: the step of the machine, one tick (spec/40 R97; entry 1), and how the host places an
instruction for the next step. -/
namespace Sys2Proof.Machine

/-- Run what a tick selects. -/
def runSelected (c : Selected) (s : State) : Host.Outcome State Fault Refusal :=
  match c with
  | .row i => exec i s
  | .configured list => executeConfigured list s

/-- One tick. "once set, ticks return immediately without invoking any action": a halted machine is unchanged
(spec/40 R98); otherwise the row that `UPC`, the opcode in `IR` and the table select runs (spec/44 R186). -/
def step (s : State) : Host.Outcome State Fault Refusal :=
  if s.core.halt then .next s else runSelected (select s.cfg.microcode s.core) s

/-- `k` ticks, stopping at the first fault or refusal. -/
def ticks : Nat → State → Host.Outcome State Fault Refusal
  | 0, s => .next s
  | k + 1, s =>
    match step s with
    | .next t => ticks k t
    | .fault f => .fault f
    | .refused r => .refused r

/-! ## Placing an instruction (entry 21) -/

/-- The machine's own state after it has looked up and fetched the word `v` from the address in `PC`: the word stands in RAM
there, and the LOOKUP and FETCH words have acted (spec/44 R187, R188). The next tick is the word's first EXECUTE tick. -/
def CoreState.afterFetch {n : Nat} (map : List (Nat × AluOp)) (v : Word n) (m : CoreState n) : CoreState n :=
  let placed := (m.setMem (memWrite m.mem m.pc.toNat v)).setHalt false
  let looked := (placed.setUpc 1).runWord map (ControlWord.ofNat lookupWord)
  (looked.setUpc 2).runWord map (ControlWord.ofNat fetchWord)

/-- The state whose next step runs the table word `w` (entry 21). An instruction word is placed in RAM at `PC` and brought
into `IR` by the machine's own LOOKUP and FETCH, with `REF` as the table; a control word is placed in the microcode ROM as
the only micro-step of opcode 0, and an instruction word with that opcode is fetched. The image and the tables are
configuration (spec/00 R9, R13); nothing inside the machine can load them. -/
def State.withFetchWord (s : State) (nbits w : Nat) : State :=
  match tableFormat nbits w with
  | .instruction =>
    { s with
      cfg := { s.cfg with microcode := refMicrocode }
      core := s.core.afterFetch s.cfg.aluModeMap (BitVec.ofNat s.width w) }
  | .control =>
    { s with
      cfg := { s.cfg with microcode := (0, [w]) :: s.cfg.microcode.filter (fun e => e.1 != 0) }
      core := s.core.afterFetch s.cfg.aluModeMap 0 }

end Sys2Proof.Machine
end

