-- ==== Sys2Proof/Machine/Clock.lean ====
section
/-! DEFINITION. Machine/Clock.lean: the tick sources and the host's controls (spec/40 R96, R101 to R106; spec/10 R34). The host
may do nothing else to a running machine (R105). -/
namespace Sys2Proof.Machine

/-- What the host's side of the clock can do to a running machine (spec/40 R105). Reading state for display is no event: the
whole `State` is visible between ticks (spec/10 R39). -/
inductive ClockEvent where
  /-- The periodic timer fires (R96). -/
  | timerFires
  /-- `step()`, a request for one tick (R104). -/
  | stepRequest
  /-- `set_enabled(b)` (R103). -/
  | setEnabled (b : Bool)
  /-- `set_interval(t)` (R106). -/
  | setInterval (t : Nat)
  deriving DecidableEq, Repr

/-- The interval clamped to the configured range: `min(max(t, INTERVAL_MIN), INTERVAL_MAX)` (spec/40 R106). -/
def clampInterval (cfg : Config) (t : Nat) : Nat := min (max t cfg.intervalMin) cfg.intervalMax

/-- The re-entrancy guard: a tick source that finds `BUSY` produces no tick, else `BUSY <- true`, one tick,
`BUSY <- false` (spec/40 R101). -/
def guardedTick (s : State) : Host.Outcome State Fault Refusal :=
  if s.clock.busy then .next s
  else
    match step (s.setBusy true) with
    | .next t => .next (t.setBusy false)
    | .fault f => .fault f
    | .refused r => .refused r

/-- One event of the host's side. The timer makes ticks only while `ENABLED` (R96, R103); `step()` only while not `ENABLED`,
and is otherwise a no-op (R104); a source that finds a tick running is dropped (R101, D19). The other two change only the
tick source's own state (R103, R106). -/
def clockEvent (e : ClockEvent) (s : State) : Host.Outcome State Fault Refusal :=
  match e with
  | .timerFires => if s.clock.enabled then guardedTick s else .next s
  | .stepRequest => if s.clock.enabled then .next s else guardedTick s
  | .setEnabled b => .next (s.setEnabled b)
  | .setInterval t => .next (s.setInterval (clampInterval s.cfg t))

end Sys2Proof.Machine
end

