-- ==== Sys2Proof/Machine/Construct.lean ====
section
/-! DEFINITION. Machine/Construct.lean: building a machine, which is its reset (spec/70 R265, R266), from a configuration and an
image; the checks that may refuse it (spec/60 R241), and the image load (spec/20 R62). -/
namespace Sys2Proof.Machine

/-! ## The image (spec/20 R62, D10, entry 22) -/

/-- An item of an image. -/
inductive ImageItem where
  /-- The next word, an integer that is masked to the bit width. -/
  | word (v : Int)
  /-- Later words continue from address `a`. -/
  | origin (a : Nat)
  deriving DecidableEq, Repr

/-- Lay the items from a cursor on; `none` if a word lands at or above `2^n`. -/
def loadImageFrom {n : Nat} (cursor : Nat) (mem : List (Nat × Word n)) :
    List ImageItem → Option (List (Nat × Word n))
  | [] => some mem
  | .origin a :: rest => loadImageFrom a mem rest
  | .word v :: rest =>
    if 2 ^ n ≤ cursor then none
    else loadImageFrom (cursor + 1) (memWrite mem cursor (BitVec.ofInt n v)) rest

/-- The memory an image leaves, over zeros and from address 0 (spec/20 R62). -/
def loadImage (n : Nat) (image : List ImageItem) : Option (List (Nat × Word n)) := loadImageFrom 0 [] image

/-! ## The premises on the two tables -/

/-- A micro-step other than the last asserts `II` (spec/30 R80 (d) forbids it). -/
def assertsIiEarly : List Nat → Bool
  | [] => false
  | [_] => false
  | w :: v :: rest => (ControlWord.ofNat w).ii || assertsIiEarly (v :: rest)

/-- Every word of the list is a well-formed control word (spec/30 R80 (a)). -/
def wordsWellFormed : List Nat → Bool
  | [] => true
  | w :: rest =>
    (match decodeControlWord w with
      | .ok _ => true
      | .error _ => false) && wordsWellFormed rest

/-- The list of one opcode meets spec/30 R80. -/
def microListOk (l : List Nat) : Bool := wordsWellFormed l && !assertsIiEarly l

/-- The table meets spec/30 R80 (a) and (d). Keys and lengths are free (R80 (b), (c)). -/
def microcodeOk (t : List (Nat × List Nat)) : Bool := t.all (fun e => microListOk e.2)

/-- "opcode values are unique within a definition set" (spec/30 R80). -/
def opcodesUnique (t : List (Nat × List Nat)) : Bool := decide ((t.map (fun e => e.1)).Nodup)

/-- What any `ALU_MODE_MAP` must keep: each of the five operations is selected by some code, and at least three of the eight
codes select SUBTRACT (spec/30 R76). -/
def aluModeMapOk (map : List (Nat × AluOp)) : Bool :=
  [AluOp.and, .or, .xor, .add, .sub].all (fun op => (List.range 8).any (fun code => aluOpOf map code == op)) &&
  decide (3 ≤ ((List.range 8).filter (fun code => aluOpOf map code == .sub)).length)

/-! ## Construction -/

/-- The declared width of every bus-connected component (spec/00 R8). -/
structure ComponentWidths where
  a : Int
  b : Int
  ir : Int
  pc : Int
  mar : Int
  ram : Int
  alu : Int
  out : Int
  deriving DecidableEq, Repr

/-- All components declared with one width. -/
def ComponentWidths.all (w : Int) : ComponentWidths := ⟨w, w, w, w, w, w, w, w⟩

/-- What a machine is built from (spec/92 D12; spec/00 R7 to R14). -/
structure BuildParams where
  /-- `N` as requested, any integer. -/
  width : Int
  components : ComponentWidths
  microcode : List (Nat × List Nat)
  hasOut : Bool
  aluModeMap : List (Nat × AluOp)
  image : List ImageItem
  intervalMin : Nat
  intervalMax : Nat
  interval : Nat
  enabledAtReset : Bool
  deriving DecidableEq, Repr

/-- `ConfigurationError` (spec/60 R241): no machine exists for that configuration. -/
inductive ConfigurationError where
  /-- "an invalid (odd/non-positive) bit width" (R241 (a)). -/
  | badWidth
  /-- "bit-width mismatch between a component and the bus it is attached to" (R241 (b)). -/
  | widthMismatch
  /-- A `MICROCODE` that breaks spec/30 R80 (R241 (d)). -/
  | badMicrocode
  /-- `MICROCODE` is no map: an opcode is defined twice (spec/30 R80, entry 23). -/
  | duplicateOpcode
  /-- An `ALU_MODE_MAP` that breaks spec/30 R76 (entry 23). -/
  | badAluModeMap
  /-- `INTERVAL_MIN` above `INTERVAL_MAX`: there is no valid range to clamp to (entry 23). -/
  | badIntervalRange
  /-- "image does not fit" (spec/20 R62, R241 (c)). -/
  | imageDoesNotFit
  deriving DecidableEq, Repr

/-- Every component that is fitted has the bus's width (spec/00 R8). The output register's width counts only if it is
fitted. -/
def widthsMatch (p : BuildParams) : Bool :=
  p.components.a == p.width && p.components.b == p.width && p.components.ir == p.width && p.components.pc == p.width &&
  p.components.mar == p.width && p.components.ram == p.width && p.components.alu == p.width &&
  (!p.hasOut || p.components.out == p.width)

/-- Build a machine: check the configuration, create the components at their reset values, load the image, start the clock
(spec/70 R266). The initial interval is clamped into its range as `set_interval` would (spec/10 R34, entry 5). -/
def construct (p : BuildParams) : Except ConfigurationError State :=
  if p.width ≤ 0 ∨ p.width % 2 ≠ 0 then .error .badWidth
  else if widthsMatch p = false then .error .widthMismatch
  else if opcodesUnique p.microcode = false then .error .duplicateOpcode
  else if microcodeOk p.microcode = false then .error .badMicrocode
  else if aluModeMapOk p.aluModeMap = false then .error .badAluModeMap
  else if p.intervalMax < p.intervalMin then .error .badIntervalRange
  else
    match loadImage p.width.toNat p.image with
    | none => .error .imageDoesNotFit
    | some mem =>
      let cfg : Config :=
        { microcode := p.microcode
          aluModeMap := p.aluModeMap
          intervalMin := p.intervalMin
          intervalMax := p.intervalMax }
      .ok
        { width := p.width.toNat
          cfg := cfg
          core := { CoreState.blank p.width.toNat p.hasOut with mem := mem }
          clock := { enabled := p.enabledAtReset, interval := clampInterval cfg p.interval, busy := false } }

/-- The spec's reference configuration with the empty image (spec/95, part 1, V8): `State.reset` is the machine it builds. -/
def referenceParams : BuildParams where
  width := 8
  components := ComponentWidths.all 8
  microcode := refMicrocode
  hasOut := true
  aluModeMap := refAluModeMap
  image := []
  intervalMin := 1
  intervalMax := 10000
  interval := 1
  enabledAtReset := true

end Sys2Proof.Machine
end

