-- ==== Sys2Proof/Safety.lean ====
section
/-! DEFINITION. Safety.lean: the invariant of a machine that was built, and what a safe step is. -/
namespace Sys2Proof.Machine

/-- The pointer is in range: LOOKUP or FETCH next, or the opcode in `IR` is undefined or empty, or the micro-step index
`UPC - 2` is inside its list (spec/10 R28, spec/44 R196). -/
def pointerInRange {n : Nat} (microcode : List (Nat × List Nat)) (m : CoreState n) : Bool :=
  match m.upc with
  | 0 => true
  | 1 => true
  | k + 2 =>
    match microcode.lookup (hiHalf m.ir) with
    | none => true
    | some [] => true
    | some (w :: rest) => decide (k < (w :: rest).length)

/-- The output register, if fitted, holds the last value of its trace, 0 before the first (spec/10 R33). -/
def outHoldsLast {n : Nat} (o : Option (OutReg n)) : Bool :=
  match o with
  | none => true
  | some r => decide (r.trace.getLast?.getD 0 = r.value)

/-- The invariant of a built machine: its width is even and positive (spec/00 R7), its tables meet the premises of
spec/30 R80 and R76, its memory is in canonical form with addresses below `2^N` (spec/20 R51), its pointer is in range,
its control word has at most one driver (spec/30 R74), its output register holds the last value of its trace, its interval
is in range and no tick is running (spec/10 R34). -/
def State.inv (s : State) : Bool :=
  decide (0 < s.width ∧ s.width % 2 = 0) &&
  opcodesUnique s.cfg.microcode && microcodeOk s.cfg.microcode && aluModeMapOk s.cfg.aluModeMap &&
  memWf s.core.mem && pointerInRange s.cfg.microcode s.core && decide (s.core.cw.driverCount ≤ 1) &&
  outHoldsLast s.core.out &&
  decide (s.cfg.intervalMin ≤ s.clock.interval ∧ s.clock.interval ≤ s.cfg.intervalMax) && !s.clock.busy

/-- A safe step: the machine goes on, with no fault and no refusal. -/
def safeStep (s : State) : Prop := ∃ t, step s = .next t

/-- At an instruction boundary with LOOKUP next, not halted. -/
def State.atLookup (s : State) : Prop := s.core.halt = false ∧ s.core.upc = 0

/-- The word the machine fetches next from a state with LOOKUP next: the word at the address in `PC`. -/
def State.nextWord (s : State) : Word s.width := memRead s.core.mem s.core.pc.toNat

/-- The word about to be fetched is this instruction's, its operand and its opcode fit their halves, and the machine's table
gives the opcode this entry. -/
def State.fetches (s : State) (opcode operand : Nat) (entry : Option (List Nat)) : Prop :=
  opcode < 2 ^ (s.width / 2) ∧ operand < 2 ^ (s.width / 2) ∧
  s.nextWord = instrWord s.width opcode operand ∧ s.cfg.microcode.lookup opcode = entry

end Sys2Proof.Machine
end

