-- ==== Sys2Proof/Certificates/Slice0/Obligations.lean ====
section
/-! DEFINITION. Certificates/Slice0/Obligations.lean: the statements for the provers. Every statement holds at every bit width and
for every configuration unless it says otherwise. -/

open Sys2Proof Sys2Proof.Machine

/-! ## The control lines (spec/41, spec/42, spec/43, spec/44) -/

/-- spec/41 R121 to R124, R132, R133: `AI`, `AO`, `BI`, `BO`, `CI`, `CO` with their flag set copy all `N` bits and change
nothing else; with it clear they do nothing. -/
def Obligations.RegisterLinesCaptureAndDrive : Prop :=
  ∀ s : State,
    exec .ai s = .next (s.setCore (if s.core.cw.ai then { s.core with a := s.core.bus } else s.core)) ∧
    exec .ao s = .next (s.setCore (if s.core.cw.ao then { s.core with bus := s.core.a } else s.core)) ∧
    exec .bi s = .next (s.setCore (if s.core.cw.bi then { s.core with b := s.core.bus } else s.core)) ∧
    exec .bo s = .next (s.setCore (if s.core.cw.bo then { s.core with bus := s.core.b } else s.core)) ∧
    exec .ci s = .next (s.setCore (if s.core.cw.ci then { s.core with pc := s.core.bus } else s.core)) ∧
    exec .co s = .next (s.setCore (if s.core.cw.co then { s.core with bus := s.core.pc } else s.core))

/-- spec/41 R125, R126: `II` captures the whole word; `IO` drives the low half alone, a value below `2^H`, and leaves `IR`.
-/
def Obligations.InstructionRegisterLines : Prop :=
  ∀ s : State,
    exec .ii s = .next (s.setCore (if s.core.cw.ii then { s.core with ir := s.core.bus } else s.core)) ∧
    ∃ v : Word s.width,
      exec .io s = .next (s.setCore (if s.core.cw.io then { s.core with bus := v } else s.core)) ∧
      v.toNat = s.core.ir.toNat % 2 ^ (s.width / 2)

/-- spec/41, section 5: `CE` with its flag set adds one to the counter modulo `2^N` and changes nothing else; that the top
address wraps to 0 is the spec's decision D5 (entry 13). -/
def Obligations.CounterIncrement : Prop :=
  ∀ s : State, ∃ v : Word s.width,
    exec .ce s = .next (s.setCore (if s.core.cw.ce then { s.core with pc := v } else s.core)) ∧
    v.toNat = (s.core.pc.toNat + 1) % 2 ^ s.width

/-- spec/41, section 6: `OI` sets the output register's value to the bus and appends it to the trace (the spec's decision
D20); with no output register fitted (conflict C3), or the flag clear, nothing changes (entry 16). -/
def Obligations.OutputLine : Prop :=
  ∀ s : State,
    (∀ o, s.core.cw.oi = true → s.core.out = some o →
      exec .oi s = .next (s.setCore
        { s.core with out := some { value := s.core.bus, trace := o.trace ++ [s.core.bus] } })) ∧
    (s.core.cw.oi = true → s.core.out = none → exec .oi s = .next s) ∧
    (s.core.cw.oi = false → exec .oi s = .next s)

/-- spec/42 R151 to R153: `MI` captures the address; `RO` drives the word at `MAR`; `RI` writes the bus into the word at
`MAR` and into no other word. -/
def Obligations.RamLines : Prop :=
  ∀ s : State,
    exec .mi s = .next (s.setCore (if s.core.cw.mi then { s.core with mar := s.core.bus } else s.core)) ∧
    exec .ro s = .next (s.setCore
      (if s.core.cw.ro then { s.core with bus := memRead s.core.mem s.core.mar.toNat } else s.core)) ∧
    ∃ mem : List (Nat × Word s.width),
      exec .ri s = .next (s.setCore (if s.core.cw.ri then { s.core with mem := mem } else s.core)) ∧
      ∀ a, memRead mem a = if a = s.core.mar.toNat then s.core.bus else memRead s.core.mem a

/-- spec/43, section 1: `EO` drives the operation its mode code selects, computed on `A` and `B` as bitwise operations and
as arithmetic modulo `2^N`; the mode lines by themselves do nothing. The weights of the mode bits in the code are the spec's
decision D3 (entry 9). -/
def Obligations.AluLines : Prop :=
  ∀ s : State,
    (exec .eo s = .next (s.setCore
      (if s.core.cw.eo then
        { s.core with
          bus :=
            match aluOpOf s.cfg.aluModeMap
              (s.core.cw.m1.toNat + 2 * s.core.cw.m2.toNat + 4 * s.core.cw.m3.toNat) with
            | .and => s.core.a &&& s.core.b
            | .or => s.core.a ||| s.core.b
            | .xor => s.core.a ^^^ s.core.b
            | .add => s.core.a + s.core.b
            | .sub => s.core.a - s.core.b }
      else s.core))) ∧
    exec .m1 s = .next s ∧ exec .m2 s = .next s ∧ exec .m3 s = .next s

/-- spec/44 R194: the control line `HLT` sets `HALT` and never clears it. -/
def Obligations.HaltLine : Prop :=
  ∀ s : State,
    (s.core.cw.hlt = true → exec .hltLine s = .next (s.setCore { s.core with halt := true })) ∧
    (s.core.cw.hlt = false → exec .hltLine s = .next s)

/-! ## The sequencer's rows (spec/44) -/

/-- spec/44 R187, R190: LOOKUP drives the counter and captures it as the address; SKIP-AHEAD has exactly that effect, at
every pointer. -/
def Obligations.LookupAndSkipAhead : Prop :=
  ∀ s : State,
    let t := s.setCore { s.core with bus := s.core.pc, mar := s.core.pc, upc := 1, cw := { co := true, mi := true } }
    exec .lookup s = .next t ∧ exec .skipAhead s = .next t

/-- spec/44 R188: FETCH. The counter is advanced modulo `2^N`; that the top address wraps to 0 is the spec's decision D5
(entry 13). -/
def Obligations.FetchBringsWordAndAdvances : Prop :=
  ∀ s : State,
    exec .fetch s = .next (s.setCore
      { s.core with
        bus := memRead s.core.mem s.core.mar.toNat
        ir := memRead s.core.mem s.core.mar.toNat
        pc := s.core.pc + 1
        upc := 2
        cw := { ro := true, ii := true, ce := true } })

/-! ## The rows of `REF`, tick by tick (spec/45; spec/44 R189, R191)

`REF` is the spec's decision D11, its ALU words rest on D3 (entries 9, 18). The statements hold at every width; the spec
defines `REF` at `N = 8`. -/

/-- spec/45 R216, R229: `NOP` and the three undefined opcodes skip ahead, at every pointer; their operand only stands in
`IR`. That `IR` holds the row's word afterwards, whatever it held before, is the model's choice (entry 19); in a tick that
the machine runs it held the word already. So is the answer at a pointer below 2. -/
def Obligations.EmptyAndUndefinedRowsSkipAhead : Prop :=
  ∀ (s : State) (n : Nat) (i : Instr) (opcode : Nat),
    (i, opcode) ∈ [(Instr.nop n, 0), (Instr.undefB n, 11), (Instr.undefC n, 12), (Instr.undefD n, 13)] →
    exec i s = .next (s.setCore
      { s.core with
        ir := instrWord s.width opcode n
        bus := s.core.pc, mar := s.core.pc, upc := 1, cw := { co := true, mi := true } })

/-- spec/45 R217: the two EXECUTE ticks of `LDA n`. That `IR` holds the row's word afterwards, whatever it held before, is
the model's choice (entry 19); in a tick that the machine runs it held the word already. -/
def Obligations.LdaExecutes : Prop :=
  ∀ (s : State) (n : Nat), n < 2 ^ (s.width / 2) → s.core.upc = 2 →
    let m : CoreState s.width :=
      { s.core with
        ir := instrWord s.width 1 n
        bus := BitVec.ofNat s.width n, mar := BitVec.ofNat s.width n
        upc := 3, cw := { io := true, mi := true } }
    exec (.lda n) s = .next (s.setCore m) ∧
    exec (.lda n) (s.setCore m) = .next (s.setCore
      { m with
        bus := memRead s.core.mem n, a := memRead s.core.mem n
        upc := 0, cw := { ro := true, ai := true } })

/-- spec/45 R220: the two EXECUTE ticks of `STA n`; only the word at `n` changes in memory. That `IR` holds the row's word
afterwards, whatever it held before, is the model's choice (entry 19); in a tick that the machine runs it held the word
already. -/
def Obligations.StaExecutes : Prop :=
  ∀ (s : State) (n : Nat), n < 2 ^ (s.width / 2) → s.core.upc = 2 →
    let m : CoreState s.width :=
      { s.core with
        ir := instrWord s.width 4 n
        bus := BitVec.ofNat s.width n, mar := BitVec.ofNat s.width n
        upc := 3, cw := { io := true, mi := true } }
    exec (.sta n) s = .next (s.setCore m) ∧
    ∃ mem : List (Nat × Word s.width),
      exec (.sta n) (s.setCore m) = .next (s.setCore
        { m with bus := s.core.a, mem := mem, upc := 0, cw := { ao := true, ri := true } }) ∧
      ∀ a, memRead mem a = if a = n then s.core.a else memRead s.core.mem a

/-- spec/45 R218, R219, R223 to R225: the three EXECUTE ticks of `ADD`, `SUB`, `AND`, `OR`, `XOR` under the reference
`ALU_MODE_MAP`: `MAR <- n`, `B <- MEM[n]`, then `A` and the bus take the result. That `IR` holds the row's word afterwards,
whatever it held before, is the model's choice (entry 19); in a tick that the machine runs it held the word already. -/
def Obligations.AluRowsExecute : Prop :=
  ∀ (s : State) (n : Nat), n < 2 ^ (s.width / 2) → s.core.upc = 2 → s.cfg.aluModeMap = refAluModeMap →
    ∀ (i : Instr) (opcode : Nat) (w : ControlWord) (r : Word s.width),
      (i, opcode, w, r) ∈
        [ (Instr.add n, 2, ({ eo := true, m1 := true, m2 := true, ai := true } : ControlWord),
            s.core.a + memRead s.core.mem n),
          (Instr.sub n, 3, { eo := true, m3 := true, ai := true }, s.core.a - memRead s.core.mem n),
          (Instr.and n, 7, { eo := true, ai := true }, s.core.a &&& memRead s.core.mem n),
          (Instr.or n, 8, { eo := true, m1 := true, ai := true }, s.core.a ||| memRead s.core.mem n),
          (Instr.xor n, 9, { eo := true, m2 := true, ai := true }, s.core.a ^^^ memRead s.core.mem n) ] →
      let m : CoreState s.width :=
        { s.core with
          ir := instrWord s.width opcode n
          bus := BitVec.ofNat s.width n, mar := BitVec.ofNat s.width n
          upc := 3, cw := { io := true, mi := true } }
      let m' : CoreState s.width :=
        { m with
          bus := memRead s.core.mem n, b := memRead s.core.mem n
          upc := 4, cw := { ro := true, bi := true } }
      exec i s = .next (s.setCore m) ∧
      exec i (s.setCore m) = .next (s.setCore m') ∧
      exec i (s.setCore m') = .next (s.setCore { m' with bus := r, a := r, upc := 0, cw := w })

/-- spec/45 R221, R222, R226 to R228: the one EXECUTE tick of `LDI`, `JMP`, `TBA`, `OUT` and `HLT`. That `IR` holds the
row's word afterwards, whatever it held before, is the model's choice (entry 19); in a tick that the machine runs it held
the word already. That `OUT` emits `A` in this tick, as last value and trace, is the spec's decision D20 (entry 16); that
`HLT` leaves the bus as it was and moves the pointer is its decisions D6 and D8 (entries 14, 15). -/
def Obligations.OneTickRowsExecute : Prop :=
  ∀ (s : State) (n : Nat), n < 2 ^ (s.width / 2) → s.core.upc = 2 →
    exec (.ldi n) s = .next (s.setCore
      { s.core with
        ir := instrWord s.width 5 n
        bus := BitVec.ofNat s.width n, a := BitVec.ofNat s.width n
        upc := 0, cw := { io := true, ai := true } }) ∧
    exec (.jmp n) s = .next (s.setCore
      { s.core with
        ir := instrWord s.width 6 n
        bus := BitVec.ofNat s.width n, pc := BitVec.ofNat s.width n
        upc := 0, cw := { io := true, ci := true } }) ∧
    exec (.tba n) s = .next (s.setCore
      { s.core with
        ir := instrWord s.width 10 n
        bus := s.core.b, a := s.core.b
        upc := 0, cw := { bo := true, ai := true } }) ∧
    exec (.out n) s = .next (s.setCore
      { s.core with
        ir := instrWord s.width 14 n
        bus := s.core.a
        out := s.core.out.map (fun o => { value := s.core.a, trace := o.trace ++ [s.core.a] })
        upc := 0, cw := { ao := true, oi := true } }) ∧
    exec (.hlt n) s = .next (s.setCore
      { s.core with
        ir := instrWord s.width 15 n
        halt := true
        upc := 0, cw := { hlt := true } })

/-- spec/44 R196, the spec's decision D9 (entry 12): a row of `REF` with a non-empty list of `len` micro-steps faults at a
pointer past its last one. -/
def Obligations.RowFaultsPastItsList : Prop :=
  ∀ (s : State) (n : Nat) (i : Instr) (len : Nat),
    (i, len) ∈
      [ (Instr.lda n, 2), (Instr.add n, 3), (Instr.sub n, 3), (Instr.sta n, 2), (Instr.ldi n, 1), (Instr.jmp n, 1),
        (Instr.and n, 3), (Instr.or n, 3), (Instr.xor n, 3), (Instr.tba n, 1), (Instr.out n, 1), (Instr.hlt n, 1) ] →
    2 + len ≤ s.core.upc → exec i s = .fault .microIndexPastEnd

/-! ## The instructions of `REF` as whole instructions of the running machine (spec/45 R216 to R230)

The opcodes and their lists are the spec's decision D11, the ALU words rest on D3 (entries 9, 18); each statement has the list
as a premise, so it holds of every table that gives the opcode that list. -/

/-- spec/45 R217: from LOOKUP, `LDA n` takes 4 ticks. That the counter wraps at the top address is the spec's decision D5
(entry 13). -/
def Obligations.LdaNetEffect : Prop :=
  ∀ (s : State) (n : Nat), s.atLookup → s.fetches 1 n (some [0x00120, 0x00081]) →
    ticks 4 s = .next (s.setCore
      { s.core with
        pc := s.core.pc + 1, ir := s.nextWord, mar := BitVec.ofNat s.width n
        a := memRead s.core.mem n, bus := memRead s.core.mem n
        upc := 0, cw := { ro := true, ai := true } })

/-- spec/45 R218, R219, R223 to R225: from LOOKUP, `ADD`, `SUB`, `AND`, `OR`, `XOR` take 5 ticks; the operand comes from
memory into `B`, the result goes to `A`. That the counter wraps at the top address is the spec's decision D5 (entry 13). -/
def Obligations.AluRowsNetEffect : Prop :=
  ∀ (s : State) (n : Nat), s.atLookup → s.cfg.aluModeMap = refAluModeMap →
    ∀ (opcode word : Nat) (w : ControlWord) (r : Word s.width),
      (opcode, word, w, r) ∈
        [ (2, 0x00E01, ({ eo := true, m1 := true, m2 := true, ai := true } : ControlWord),
            s.core.a + memRead s.core.mem n),
          (3, 0x01201, { eo := true, m3 := true, ai := true }, s.core.a - memRead s.core.mem n),
          (7, 0x00201, { eo := true, ai := true }, s.core.a &&& memRead s.core.mem n),
          (8, 0x00601, { eo := true, m1 := true, ai := true }, s.core.a ||| memRead s.core.mem n),
          (9, 0x00A01, { eo := true, m2 := true, ai := true }, s.core.a ^^^ memRead s.core.mem n) ] →
      s.fetches opcode n (some [0x00120, 0x00084, word]) →
      ticks 5 s = .next (s.setCore
        { s.core with
          pc := s.core.pc + 1, ir := s.nextWord, mar := BitVec.ofNat s.width n
          b := memRead s.core.mem n, a := r, bus := r
          upc := 0, cw := w })

/-- spec/45 R220: from LOOKUP, `STA n` takes 4 ticks; the word at `n` becomes `A` and every other word reads as before. That
the counter wraps at the top address is the spec's decision D5 (entry 13). -/
def Obligations.StaNetEffect : Prop :=
  ∀ (s : State) (n : Nat), s.atLookup → s.fetches 4 n (some [0x00120, 0x00042]) →
    ∃ mem : List (Nat × Word s.width),
      ticks 4 s = .next (s.setCore
        { s.core with
          pc := s.core.pc + 1, ir := s.nextWord, mar := BitVec.ofNat s.width n
          mem := mem, bus := s.core.a
          upc := 0, cw := { ao := true, ri := true } }) ∧
      ∀ a, memRead mem a = if a = n then s.core.a else memRead s.core.mem a

/-- spec/45 R221, R226: from LOOKUP, `LDI n` and `TBA` take 3 ticks; `MAR` keeps the instruction's own address. That the
counter wraps at the top address is the spec's decision D5 (entry 13). -/
def Obligations.LdiAndTbaNetEffect : Prop :=
  ∀ (s : State) (n : Nat), s.atLookup →
    (s.fetches 5 n (some [0x00021]) →
      ticks 3 s = .next (s.setCore
        { s.core with
          pc := s.core.pc + 1, ir := s.nextWord, mar := s.core.pc
          a := BitVec.ofNat s.width n, bus := BitVec.ofNat s.width n
          upc := 0, cw := { io := true, ai := true } })) ∧
    (s.fetches 10 n (some [0x00009]) →
      ticks 3 s = .next (s.setCore
        { s.core with
          pc := s.core.pc + 1, ir := s.nextWord, mar := s.core.pc
          a := s.core.b, bus := s.core.b
          upc := 0, cw := { bo := true, ai := true } }))

/-- spec/45 R222: from LOOKUP, `JMP n` takes 3 ticks; the increment done by FETCH is overwritten. -/
def Obligations.JmpNetEffect : Prop :=
  ∀ (s : State) (n : Nat), s.atLookup → s.fetches 6 n (some [0x04020]) →
    ticks 3 s = .next (s.setCore
      { s.core with
        pc := BitVec.ofNat s.width n, ir := s.nextWord, mar := s.core.pc
        bus := BitVec.ofNat s.width n
        upc := 0, cw := { io := true, ci := true } })

/-- spec/45 R227: from LOOKUP, `OUT` takes 3 ticks and emits `A`; with no output register it only puts `A` on the bus. That
the counter wraps at the top address is the spec's decision D5 (entry 13). The value and the trace of the output register
are its decision D20 (entry 16). -/
def Obligations.OutNetEffect : Prop :=
  ∀ (s : State) (n : Nat), s.atLookup → s.fetches 14 n (some [0x10002]) →
    ticks 3 s = .next (s.setCore
      { s.core with
        pc := s.core.pc + 1, ir := s.nextWord, mar := s.core.pc
        bus := s.core.a
        out := s.core.out.map (fun o => { value := s.core.a, trace := o.trace ++ [s.core.a] })
        upc := 0, cw := { ao := true, oi := true } })

/-- spec/45 R228: from LOOKUP, `HLT` takes 3 ticks, after which every tick is a no-op. That the counter wraps at the top
address is the spec's decision D5 (entry 13). That the halting tick keeps the word on the bus and moves the pointer is its
decisions D6 and D8 (entries 14, 15). -/
def Obligations.HltNetEffect : Prop :=
  ∀ (s : State) (n k : Nat), s.atLookup → s.fetches 15 n (some [0x20000]) →
    ticks (3 + k) s = .next (s.setCore
      { s.core with
        pc := s.core.pc + 1, ir := s.nextWord, mar := s.core.pc
        bus := s.nextWord, halt := true
        upc := 0, cw := { hlt := true } })

/-- spec/45 R216, R229, spec/44 R190: from LOOKUP, an instruction whose opcode is empty or undefined takes 3 ticks, the
third being the next instruction's LOOKUP, whatever its opcode and operand. That the counter wraps at the top address is the
spec's decision D5 (entry 13). -/
def Obligations.SkippedInstructionNetEffect : Prop :=
  ∀ (s : State) (opcode n : Nat) (entry : Option (List Nat)), s.atLookup → s.fetches opcode n entry →
    (entry = none ∨ entry = some []) →
    ticks 3 s = .next (s.setCore
      { s.core with
        pc := s.core.pc + 1, ir := s.nextWord
        bus := s.core.pc + 1, mar := s.core.pc + 1
        upc := 1, cw := { co := true, mi := true } })

/-! ## The step (spec/40 R97, spec/44 R186) -/

/-- spec/44 R186, spec/45 R215: a machine that is not halted runs LOOKUP at pointer 0, FETCH at pointer 1, and, at a pointer
of 2 or more under the table `REF`, the row the word in `IR` decodes to; the step adds nothing around it. -/
def Obligations.StepRunsDecodedInstruction : Prop :=
  ∀ (s : State), s.core.halt = false →
    (s.core.upc = 0 → step s = exec .lookup s) ∧
    (s.core.upc = 1 → step s = exec .fetch s) ∧
    (∀ i, 2 ≤ s.core.upc → s.cfg.microcode = refMicrocode →
      decodeWord (s.width / 2) s.core.ir.toNat = .ok i → step s = exec i s)

/-- spec/44 R187, R188, spec/45 R230: from LOOKUP, two ticks bring the word at `PC` into `IR`, and the third runs the row of
`REF` it decodes to. That the counter wraps at the top address is the spec's decision D5 (entry 13). -/
def Obligations.FetchedInstructionRunsThird : Prop :=
  ∀ (s : State) (i : Instr), s.atLookup → s.cfg.microcode = refMicrocode →
    decodeWord (s.width / 2) s.nextWord.toNat = .ok i →
    let t := s.setCore
      { s.core with
        bus := s.nextWord, ir := s.nextWord, mar := s.core.pc, pc := s.core.pc + 1
        upc := 2, cw := { ro := true, ii := true, ce := true } }
    ticks 2 s = .next t ∧ ticks 3 s = exec i t

/-- spec/40 R97: the step, dispatched through the rows of the table, is the tick as the spec writes it, over the whole
configured table; in every state. -/
def Obligations.StepIsTheTick : Prop :=
  ∀ s : State, step s = s.withOutcome (s.core.tick s.cfg)

/-- spec/40 R98, R102: a halted machine is unchanged by any number of ticks, and no event of the host's side changes
anything but the tick source, so nothing clears the flag. -/
def Obligations.HaltedMachineNeverChanges : Prop :=
  ∀ (s : State), s.core.halt = true →
    (∀ k : Nat, ticks k s = .next s) ∧ ∀ e : ClockEvent, ∃ c : Clock, clockEvent e s = .next { s with clock := c }

/-- spec/44 R190, R79: at any pointer of 2 or more, under any table, an undefined or empty opcode performs the decode action
for the next instruction and sets the pointer to 1. -/
def Obligations.UndefinedOpcodeKeepsRunning : Prop :=
  ∀ s : State, s.core.halt = false → 2 ≤ s.core.upc →
    (s.cfg.microcode.lookup (hiHalf s.core.ir) = none ∨ s.cfg.microcode.lookup (hiHalf s.core.ir) = some []) →
    step s = .next (s.setCore
      { s.core with bus := s.core.pc, mar := s.core.pc, upc := 1, cw := { co := true, mi := true } })

/-- spec/44 R189, R191: an EXECUTE tick of a defined, non-empty opcode asserts the word at index `UPC - 2`, and the pointer
goes to 0 after the last one and up by one otherwise. -/
def Obligations.ExecuteTickAssertsItsWord : Prop :=
  ∀ (s : State) (l : List Nat) (k w : Nat), s.core.halt = false → s.core.upc = k + 2 →
    s.cfg.microcode.lookup (hiHalf s.core.ir) = some l → l[k]? = some w →
    w < 2 ^ 18 → (ControlWord.ofNat w).driverCount ≤ 1 →
    step s = .next (s.setCore
      ((s.core.setUpc (if k = l.length - 1 then 0 else s.core.upc + 1)).runWord s.cfg.aluModeMap (ControlWord.ofNat w)))

/-- spec/60 R245, the spec's decisions D7, D9, D21 (entries 10 to 12): the three stops of the model, in every state, each
exactly where the spec puts it: a fault or a refusal there, and no fault and no refusal anywhere else. -/
def Obligations.TickStopsExactlyThere : Prop :=
  ∀ s : State,
    (∀ f : Fault, step s = .fault f ↔
      s.core.halt = false ∧ ∃ l k, s.core.upc = k + 2 ∧ s.cfg.microcode.lookup (hiHalf s.core.ir) = some l ∧
        l ≠ [] ∧ l.length ≤ k ∧ f = .microIndexPastEnd) ∧
    (∀ r : Refusal, step s = .refused r ↔
      s.core.halt = false ∧ ∃ l k w, s.core.upc = k + 2 ∧ s.cfg.microcode.lookup (hiHalf s.core.ir) = some l ∧
        l[k]? = some w ∧
        (2 ^ 18 ≤ w ∧ r = .unnamedLine ∨
          w < 2 ^ 18 ∧ 2 ≤ (ControlWord.ofNat w).driverCount ∧ r = .busConflict))

/-- spec/44 R198: an instruction whose opcode has a list of `L >= 1` micro-steps, reached by a normal LOOKUP, occupies `2 +
L` ticks: the pointer is 0 again after exactly that many and not before. The premises are spec/30 R80's on the list, and
that no micro-step but the last halts the machine. -/
def Obligations.InstructionTakesTwoPlusLengthTicks : Prop :=
  ∀ (s : State) (opcode n : Nat) (l : List Nat), s.atLookup → s.fetches opcode n (some l) → l ≠ [] →
    microListOk l = true → (∀ w ∈ l.dropLast, (ControlWord.ofNat w).hlt = false) →
    (∃ m, ticks (2 + l.length) s = .next (s.setCore m) ∧ m.upc = 0) ∧
    ∀ j, 0 < j → j < 2 + l.length → ∃ m, ticks j s = .next (s.setCore m) ∧ m.upc = j

/-! ## What a tick under one control word does (spec/40, spec/41, spec/42, spec/43) -/

/-- spec/40 R91, R97, R100, spec/43 R176, spec/42 R157: under a word with at most one driver the bus takes that driver's
value from before the tick, or keeps its own; and every capture of the same tick gets what is on the bus then. That an
undriven bus keeps its value is the spec's decision D6 (entry 14); that the output register captures in the same band, as
last value and trace, is its decision D20 (entry 16). -/
def Obligations.DriverReachesEveryCapture : Prop :=
  ∀ (n : Nat) (map : List (Nat × AluOp)) (w : ControlWord) (m : CoreState n), w.driverCount ≤ 1 →
    let t := m.runWord map w
    (w.ao = true → t.bus = m.a) ∧ (w.bo = true → t.bus = m.b) ∧ (w.io = true → t.bus = operandWord m.ir) ∧
    (w.co = true → t.bus = m.pc) ∧ (w.ro = true → t.bus = memRead m.mem m.mar.toNat) ∧
    (w.eo = true → t.bus = alu map (modeCode w) m.a m.b) ∧
    (w.driverCount = 0 → t.bus = m.bus) ∧
    (w.ai = true → t.a = t.bus) ∧ (w.bi = true → t.b = t.bus) ∧ (w.ii = true → t.ir = t.bus) ∧
    (w.ci = true → t.pc = t.bus) ∧ (w.mi = true → t.mar = t.bus) ∧
    (w.ri = true → memRead t.mem t.mar.toNat = t.bus) ∧
    (w.oi = true → ∀ o, m.out = some o → t.out = some { value := t.bus, trace := o.trace ++ [t.bus] })

/-- spec/10 R21 to R30, spec/20 R66: each element of the state is written by its own lines only, in every tick under any
table: without its line in the word, the element is as before the tick. The elements are the bus, the registers, the
counter, the address register, memory, the output register and the halt flag. That the bus is as before without a driver is
the spec's decision D6 (entry 14). -/
def Obligations.ElementsWrittenOnlyByTheirLines : Prop :=
  ∀ (s : State) (m : CoreState s.width), s.core.halt = false → step s = .next (s.setCore m) →
    (m.cw.driverCount = 0 → m.bus = s.core.bus) ∧
    (m.cw.ai = false → m.a = s.core.a) ∧ (m.cw.bi = false → m.b = s.core.b) ∧ (m.cw.ii = false → m.ir = s.core.ir) ∧
    (m.cw.ce = false → m.cw.ci = false → m.pc = s.core.pc) ∧ (m.cw.mi = false → m.mar = s.core.mar) ∧
    (m.cw.ri = false → m.mem = s.core.mem) ∧
    (m.cw.ri = true → ∀ a, a ≠ m.mar.toNat → memRead m.mem a = memRead s.core.mem a) ∧
    (m.cw.oi = false → m.out = s.core.out) ∧ (m.halt = m.cw.hlt)

/-- spec/41 R131, R134, R135, R140, spec/40 R107: the counter under any word: one increment in a tick with `CE`, overwritten
by `CI`; the bus carries the value before the increment; `CI|CO|CE` leaves it as it was. -/
def Obligations.CounterUnderAnyWord : Prop :=
  ∀ (n : Nat) (map : List (Nat × AluOp)) (w : ControlWord) (m : CoreState n), w.driverCount ≤ 1 →
    let t := m.runWord map w
    (w.ce = true → w.ci = false → t.pc.toNat = (m.pc.toNat + 1) % 2 ^ n) ∧
    (w.ce = false → w.ci = false → t.pc = m.pc) ∧
    (w.ci = true → t.pc = t.bus) ∧
    (w.co = true → t.bus = m.pc) ∧
    (w.ci = true → w.co = true → t.pc = m.pc)

/-- spec/41 R140: a register driven and captured in one word keeps its value and is on the bus, except that `II|IO` clears
the opcode of `IR`. -/
def Obligations.SameRegisterInAndOut : Prop :=
  ∀ (n : Nat) (map : List (Nat × AluOp)) (w : ControlWord) (m : CoreState n), w.driverCount ≤ 1 →
    let t := m.runWord map w
    (w.ai = true → w.ao = true → t.a = m.a ∧ t.bus = m.a) ∧
    (w.bi = true → w.bo = true → t.b = m.b ∧ t.bus = m.b) ∧
    (w.ii = true → w.io = true → t.ir.toNat = loHalf m.ir ∧ t.bus = t.ir) ∧
    (w.ci = true → w.co = true → t.pc = m.pc ∧ t.bus = m.pc)

/-- spec/42 R154 to R156 (C1): in one word `RO` reads at the old address, `MI` then takes the word read; `RI` writes at the
new address; `RO|RI` without `MI` changes no word. -/
def Obligations.AddressCaptureBetweenReadAndWrite : Prop :=
  ∀ (n : Nat) (map : List (Nat × AluOp)) (w : ControlWord) (m : CoreState n), w.driverCount ≤ 1 →
    let t := m.runWord map w
    (w.ro = true → w.mi = true → t.bus = memRead m.mem m.mar.toNat ∧ t.mar = memRead m.mem m.mar.toNat) ∧
    (w.mi = true → w.ri = true →
      t.mar = t.bus ∧ ∀ a, memRead t.mem a = if a = t.bus.toNat then t.bus else memRead m.mem a) ∧
    (w.ro = true → w.ri = true → w.mi = false → ∀ a, memRead t.mem a = memRead m.mem a) ∧
    (w.ro = true → w.ri = true → w.mi = true →
      memRead t.mem (memRead m.mem m.mar.toNat).toNat = memRead m.mem m.mar.toNat)

/-- spec/40 R99, the spec's own inference and decision D22 (entry 17): under a word with at most one driver the order of the
actions inside a band cannot be observed: any order of the band's actions gives the state of the order the model runs. -/
def Obligations.OrderInsideABandUnobservable : Prop :=
  ∀ (n : Nat) (map : List (Nat × AluOp)) (m : CoreState n), m.cw.driverCount ≤ 1 →
    (∀ l : List (CoreState n → CoreState n),
      l.Perm [CoreState.driveA, CoreState.driveB, CoreState.driveIr, CoreState.drivePc, CoreState.driveRam,
        CoreState.driveAlu map] →
      l.foldl (fun x f => f x) m = m.writeBand map) ∧
    (∀ l : List (CoreState n → CoreState n),
      l.Perm [CoreState.captureMar, CoreState.incrementPc] → l.foldl (fun x f => f x) m = m.midBand) ∧
    (∀ l : List (CoreState n → CoreState n),
      l.Perm [CoreState.captureA, CoreState.captureB, CoreState.captureIr, CoreState.captureRam, CoreState.capturePc,
        CoreState.captureOut] →
      l.foldl (fun x f => f x) m = m.readBand)

/-! ## The ALU (spec/43) -/

/-- spec/43 R171, R172, R174: the ripple-carry loops are addition and subtraction modulo `2^N`, with the non-negative
modulus, at every width; so addition is commutative with 0 its unit, and `A - A = 0`, `A - 0 = A`. -/
def Obligations.RippleCarryIsModularArithmetic : Prop :=
  ∀ (n : Nat) (a b : Word n),
    (rippleSum a b false).toNat = (a.toNat + b.toNat) % 2 ^ n ∧
    ((rippleSum a (~~~b) true).toNat : Int) = ((a.toNat : Int) - (b.toNat : Int)) % (2 ^ n : Nat) ∧
    aluResult .add a b = rippleSum a b false ∧ aluResult .sub a b = rippleSum a (~~~b) true ∧
    aluResult .add a b = aluResult .add b a ∧ aluResult .add a 0 = a ∧
    aluResult .sub a a = 0 ∧ aluResult .sub a 0 = a

/-- spec/43 R171, R172: the dropped final carry: of ADD, exactly when the sum is `2^N` or more; of SUBTRACT, exactly when `A
>= B` unsigned. -/
def Obligations.FinalCarryMeaning : Prop :=
  ∀ (n : Nat) (a b : Word n),
    (finalCarry a b false = true ↔ 2 ^ n ≤ a.toNat + b.toNat) ∧
    (finalCarry a (~~~b) true = true ↔ b.toNat ≤ a.toNat)

/-- spec/43 R168 to R170 (C5): the bitwise operations act bit by bit; AND and OR are commutative and idempotent, XOR is
commutative and its square is 0; and their values with 0 and with all ones. -/
def Obligations.BitwiseOperationsAndTheirLaws : Prop :=
  ∀ (n : Nat) (a b : Word n),
    (∀ j, (aluResult .and a b).getLsbD j = (a.getLsbD j && b.getLsbD j) ∧
      (aluResult .or a b).getLsbD j = (a.getLsbD j || b.getLsbD j) ∧
      (aluResult .xor a b).getLsbD j = (a.getLsbD j ^^ b.getLsbD j)) ∧
    aluResult .and a b = aluResult .and b a ∧ aluResult .or a b = aluResult .or b a ∧
    aluResult .xor a b = aluResult .xor b a ∧
    aluResult .and a a = a ∧ aluResult .or a a = a ∧ aluResult .xor a a = 0 ∧
    aluResult .and a 0 = 0 ∧ aluResult .or a 0 = a ∧ aluResult .xor a 0 = a ∧
    aluResult .and a (BitVec.allOnes n) = a ∧ aluResult .or a (BitVec.allOnes n) = BitVec.allOnes n ∧
    aluResult .xor a (BitVec.allOnes n) = ~~~a

/-- spec/43 R173, spec/30 R76: a mode code the map does not have selects SUBTRACT, under any map; under the reference map,
the spec's decision D3 (entry 9), the five operations are codes 0 to 4. -/
def Obligations.UnmappedModeCodeIsSubtract : Prop :=
  (∀ (n : Nat) (map : List (Nat × AluOp)) (code : Nat) (a b : Word n), map.lookup code = none →
    alu map code a b = a - b) ∧
  (∀ (n : Nat) (a b : Word n),
    alu refAluModeMap 0 a b = a &&& b ∧ alu refAluModeMap 1 a b = a ||| b ∧ alu refAluModeMap 2 a b = a ^^^ b ∧
    alu refAluModeMap 3 a b = a + b ∧ alu refAluModeMap 4 a b = a - b ∧ alu refAluModeMap 5 a b = a - b ∧
    alu refAluModeMap 6 a b = a - b ∧ alu refAluModeMap 7 a b = a - b)

/-! ## Frames -/

/-- spec/10 R20, R35: what an instruction, or a step, goes on to differs from before in the machine's own tuple only: the
width, the configuration and the tick source are unchanged. -/
def Obligations.OnlyTheCoreChanges : Prop :=
  (∀ (i : Instr) (s t : State), exec i s = .next t → ∃ m, t = s.setCore m) ∧
  (∀ (s t : State), step s = .next t → ∃ m, t = s.setCore m)

/-- spec/41 to spec/45: the frame of every row of the table. `A`, `B`, `PC`, `MAR`, memory, the output register and `HALT`
are unchanged by every instruction but the ones named for them; `RI` and `STA` change no word but the one at `MAR`; the bus
is unchanged by the lines that drive nothing and by `HLT`; `IR` is unchanged but by `II`, FETCH and the `REF` rows, which
leave their own word in it; `UPC` and `CW` are unchanged by the control lines. That a `REF` row leaves its own word in `IR`,
whatever `IR` held, is the model's choice (entry 19); that the bus stays without a driver is the spec's decision D6 (entry
14). -/
def Obligations.FrameOfEveryInstruction : Prop :=
  ∀ (i : Instr) (s : State) (m : CoreState s.width), exec i s = .next (s.setCore m) →
    (i ∉ [.ai] → (∀ n, i ∉ [.lda n, .add n, .sub n, .ldi n, .and n, .or n, .xor n, .tba n]) → m.a = s.core.a) ∧
    (i ∉ [.bi] → (∀ n, i ∉ [.add n, .sub n, .and n, .or n, .xor n]) → m.b = s.core.b) ∧
    (i ∉ [.ce, .ci, .fetch] → (∀ n, i ≠ .jmp n) → m.pc = s.core.pc) ∧
    (i ∉ [.mi, .lookup, .skipAhead] →
      (∀ n, i ∉ [.nop n, .lda n, .add n, .sub n, .sta n, .and n, .or n, .xor n, .undefB n, .undefC n, .undefD n]) →
      m.mar = s.core.mar) ∧
    (i ≠ .ri → (∀ n, i ≠ .sta n) → m.mem = s.core.mem) ∧
    (∀ a, a ≠ s.core.mar.toNat → memRead m.mem a = memRead s.core.mem a) ∧
    (i ≠ .oi → (∀ n, i ≠ .out n) → m.out = s.core.out) ∧
    (i ≠ .hltLine → (∀ n, i ≠ .hlt n) → m.halt = s.core.halt) ∧
    (i ∉ [.ao, .bo, .io, .co, .ro, .eo, .lookup, .fetch, .skipAhead] →
      ((encode i).1 = .control ∨ ∃ n, i = .hlt n) → m.bus = s.core.bus) ∧
    ((encode i).1 = .control → i ∉ [.ii, .fetch] → m.ir = s.core.ir) ∧
    ((encode i).1 = .instruction → m.ir = BitVec.ofNat s.width (encodeAt (s.width / 2) i).2) ∧
    ((encode i).1 = .control → i ∉ [.lookup, .fetch, .skipAhead] → m.upc = s.core.upc ∧ m.cw = s.core.cw)

/-! ## The invariant -/

/-- The machine at reset meets the invariant. Its values are the spec's decisions D1, D3, D4, D11 and the model's choices
where D16 leaves them open (entries 2, 4, 5, 9, 18); the output register is fitted by entry 16. -/
def Obligations.ResetMeetsInvariant : Prop := State.reset.inv = true

/-- spec/10 R28, spec/30 R74, R80, spec/44 R196: every step of every machine, from every state that meets the invariant,
gives a state that meets it. -/
def Obligations.StepKeepsInvariant : Prop :=
  ∀ s t : State, s.inv = true → step s = .next t → t.inv = true

/-- spec/60 R244, R245: a machine whose table meets spec/30 R80 never faults and refuses nothing, in any number of ticks. -/
def Obligations.BuiltMachineNeverStops : Prop :=
  ∀ (s : State) (k : Nat), s.inv = true → ∃ t, ticks k s = .next t ∧ t.inv = true ∧ safeStep t

/-- spec/70 R266, spec/60 R241, spec/30 R74, R76, R80: every machine that is built meets the invariant. R266 checks the
widths alone. The rest of the invariant is from what the model checks beyond them: the control words of the table are well
formed by the spec's decisions D7 and D21 (R241 (d), entries 10, 11), no opcode is defined twice, the `ALU_MODE_MAP` keeps
what R76 asks and the interval range is not empty by the model's own refusals (entry 23), the initial interval is clamped
into that range (entry 5), no word of the image lands past the top address by D10 (R241 (c), entry 22), and the registers,
the empty `CW` and the empty output register are D4 and D20 (entries 4, 16), memory's form entry 6. -/
def Obligations.ConstructedMachineMeetsInvariant : Prop :=
  ∀ (p : BuildParams) (s : State), construct p = .ok s → s.inv = true

/-! ## Reset, construction and the image -/

/-- spec/60 R241 (a), (b): a width that is odd or not positive, or a component declared with another width than the bus,
gives no machine. -/
def Obligations.ConstructRefusesBadWidths : Prop :=
  (∀ p : BuildParams, p.width ≤ 0 ∨ p.width % 2 = 1 → construct p = .error .badWidth) ∧
  (∀ p : BuildParams, 0 < p.width → p.width % 2 = 0 →
    (p.components.a ≠ p.width ∨ p.components.b ≠ p.width ∨ p.components.ir ≠ p.width ∨ p.components.pc ≠ p.width ∨
      p.components.mar ≠ p.width ∨ p.components.ram ≠ p.width ∨ p.components.alu ≠ p.width ∨
      (p.hasOut = true ∧ p.components.out ≠ p.width)) →
    construct p = .error .widthMismatch)

/-- spec/10 R36, spec/70 R266: a machine that is built is in the reset state: its memory is the loaded image, `UPC` is 0 by
VC7, and by the spec's decisions D4 and D20 (entry 4) every register is 0, nothing is asserted, the machine is not halted
and the output register, if fitted, is empty. -/
def Obligations.ConstructedMachineIsReset : Prop :=
  ∀ (p : BuildParams) (s : State), construct p = .ok s →
    (s.width : Int) = p.width ∧ s.cfg.microcode = p.microcode ∧ s.cfg.aluModeMap = p.aluModeMap ∧
    loadImage s.width p.image = some s.core.mem ∧
    s.core.upc = 0 ∧ s.core.pc = 0 ∧ s.core.halt = false ∧ s.core.a = 0 ∧ s.core.b = 0 ∧ s.core.ir = 0 ∧
    s.core.mar = 0 ∧ s.core.bus = 0 ∧ s.core.cw = ControlWord.empty ∧
    s.core.out = (if p.hasOut then some { value := 0, trace := [] } else none) ∧
    s.clock.busy = false ∧ s.clock.enabled = p.enabledAtReset

/-- `State.reset` is the machine the spec's reference configuration builds (entries 2, 4, 5, 9, 16, 18). -/
def Obligations.ResetIsTheReferenceMachine : Prop := construct referenceParams = .ok State.reset

/-- spec/20 R62, the spec's decision D10 (entry 22): an image of words alone fills successive addresses from 0, each masked
to the width, over zeros (D4, entry 4), and does not fit if it is longer than RAM; after any image, words behind an origin
fill successive addresses from the origin's, over what stood there, and do not fit if the last of them lands past the top
address; an image that does not fit is not mended by more items. -/
def Obligations.ImageLoad : Prop :=
  (∀ (n : Nat) (vs : List Int), vs.length ≤ 2 ^ n →
    ∃ mem, loadImage n (vs.map .word) = some mem ∧ memWf mem = true ∧
      ∀ a, ((memRead mem a).toNat : Int) = (vs[a]?.getD 0) % (2 ^ n : Nat)) ∧
  (∀ (n : Nat) (vs : List Int), 2 ^ n < vs.length → loadImage n (vs.map .word) = none) ∧
  (∀ (n : Nat) (image : List ImageItem) (mem : List (Nat × Word n)) (a : Nat) (vs : List Int),
    loadImage n image = some mem →
    (a + vs.length ≤ 2 ^ n ∨ vs = [] →
      ∃ mem', loadImage n (image ++ .origin a :: vs.map .word) = some mem' ∧
        ∀ c, ((memRead mem' c).toNat : Int) =
          if a ≤ c ∧ c < a + vs.length then (vs[c - a]?.getD 0) % (2 ^ n : Nat) else ((memRead mem c).toNat : Int)) ∧
    (2 ^ n < a + vs.length → vs ≠ [] → loadImage n (image ++ .origin a :: vs.map .word) = none)) ∧
  (∀ (n : Nat) (image rest : List ImageItem), loadImage n image = none → loadImage n (image ++ rest) = none)

/-- spec/70 R268: the first two ticks of a built machine are LOOKUP at address 0 and FETCH of the word there, whatever the
image. -/
def Obligations.FirstTicksAfterReset : Prop :=
  ∀ (p : BuildParams) (s : State), construct p = .ok s →
    ticks 1 s = .next (s.setCore
      { s.core with bus := 0, mar := 0, upc := 1, cw := { co := true, mi := true } }) ∧
    ticks 2 s = .next (s.setCore
      { s.core with
        bus := memRead s.core.mem 0, ir := memRead s.core.mem 0, mar := 0, pc := 1
        upc := 2, cw := { ro := true, ii := true, ce := true } })

/-! ## Encodings (spec/30, spec/00 R15) -/

/-- spec/30 R70, R85: at every half width of at least 4 bits, every well-formed row of `REF`, with every operand its half
can hold, is what its word decodes to. -/
def Obligations.DecodeOfEncodeAtEveryWidth : Prop :=
  ∀ (h : Nat) (i : Instr), 4 ≤ h → i.wfAt h = true → (encodeAt h i).1 = .instruction →
    (encodeAt h i).2 < 2 ^ (2 * h) ∧ decodeAt h .instruction (encodeAt h i).2 = .ok i

/-- spec/30 R70, R71: every word of RAM at the reference width is the word of exactly one row of `REF`. -/
def Obligations.EveryWordDecodes : Prop :=
  ∀ w : Nat, w < 256 → ∃ i : Instr, i.wf = true ∧ encode i = (.instruction, w) ∧ decodeWord 4 w = .ok i ∧
    ∀ j : Instr, j.wf = true → encode j = (.instruction, w) → j = i

/-- spec/30, section 2, the spec's numbering D2 (entry 8): the eighteen bits of a control word and the set of its lines say
the same, and no bit is dropped. -/
def Obligations.ControlWordNumberingIsFaithful : Prop :=
  (∀ w : Nat, w < 2 ^ 18 → (ControlWord.ofNat w).toNat = w) ∧
  (∀ c : ControlWord, c.toNat < 2 ^ 18 ∧ ControlWord.ofNat c.toNat = c)

/-- spec/30 R74 (a), (b), the spec's decisions D7 and D21 (entries 10, 11): a natural is a control word exactly if it has no
bit above 17 and at most one driver line. -/
def Obligations.WellFormedControlWords : Prop :=
  ∀ w : Nat,
    (∀ c, decodeControlWord w = .ok c ↔ w < 2 ^ 18 ∧ (ControlWord.ofNat w).driverCount ≤ 1 ∧ c = ControlWord.ofNat w) ∧
    (2 ^ 18 ≤ w → decodeControlWord w = .error .lineAbove17) ∧
    (w < 2 ^ 18 → 2 ≤ (ControlWord.ofNat w).driverCount → decodeControlWord w = .error .twoDrivers)

/-- spec/00 R15: vector index `i` of a `W`-bit vector is integer bit `W - 1 - i`, both ways, and the round trips. That a
negative integer is reduced with the mathematical modulus is the spec's decision D10 (entry 22). -/
def Obligations.BooleanVectorRoundTrip : Prop :=
  (∀ v : List Bool, fromInt (toInt v) v.length = v ∧
    ∀ i, i < v.length → (toInt v).testBit (v.length - 1 - i) = v.getD i false) ∧
  (∀ (k : Int) (w : Nat), ((toInt (fromInt k w) : Nat) : Int) = k % (2 ^ w : Nat) ∧ (fromInt k w).length = w ∧
    ∀ i, i < w → (fromInt k w)[i]? = some (decide (k / 2 ^ (w - 1 - i) % 2 = 1)))

/-- Words written out from spec/30 R70, R73 and spec/45 R215 decode to the rows they stand for. -/
def Obligations.DecodingOfWrittenOutWords : Prop :=
  decodeWord 4 0b00101111 = .ok (.add 15) ∧ decodeWord 4 0b01100011 = .ok (.jmp 3) ∧
  decodeWord 4 0b11110000 = .ok (.hlt 0) ∧ decodeWord 4 0b10110111 = .ok (.undefB 7) ∧
  decodeLine 0b000000000000000001 = .ok .ai ∧ decodeLine 0b000000001000000000 = .ok .eo ∧
  decodeLine 0b100000000000000000 = .ok .hltLine

/-! ## The tick sources (spec/40 R96, R101 to R106) -/

/-- spec/40 R96, R101, R104: with no tick running the timer gives one tick while enabled and none otherwise, and `step()`
one tick while not enabled and none otherwise; with a tick running both are dropped, `step()` by the spec's decision D19
(entry 24). -/
def Obligations.TickSourcesAreExclusive : Prop :=
  ∀ s : State,
    (s.clock.busy = false → ∀ t, step s = .next t →
      clockEvent .timerFires s = .next (if s.clock.enabled then t else s) ∧
      clockEvent .stepRequest s = .next (if s.clock.enabled then s else t)) ∧
    (s.clock.busy = true → clockEvent .timerFires s = .next s ∧ clockEvent .stepRequest s = .next s)

/-- spec/40 R103, R106: enabling and setting the interval change nothing of the machine; the interval is clamped to the
range. -/
def Obligations.ClockControls : Prop :=
  ∀ (s : State) (b : Bool) (t : Nat),
    clockEvent (.setEnabled b) s = .next { s with clock := { s.clock with enabled := b } } ∧
    ∃ v, clockEvent (.setInterval t) s = .next { s with clock := { s.clock with interval := v } } ∧
      v = min (max t s.cfg.intervalMin) s.cfg.intervalMax ∧
      (s.cfg.intervalMin ≤ s.cfg.intervalMax →
        s.cfg.intervalMin ≤ v ∧ v ≤ s.cfg.intervalMax ∧ (s.cfg.intervalMin ≤ t → t ≤ s.cfg.intervalMax → v = t))
end

