-- ==== Sys2Proof/Laws/State.lean ====
section
/-! SUPPORT. Laws/State.lean: what each update of the state does to each field, one lemma per field per update, so that no
later proof unfolds a record update. -/
namespace Sys2Proof.Machine

section CoreFields
variable {n : Nat} (m : CoreState n)

@[simp] theorem CoreState.setBus_bus (v : Word n) : (m.setBus v).bus = v := rfl
@[simp] theorem CoreState.setBus_a (v : Word n) : (m.setBus v).a = m.a := rfl
@[simp] theorem CoreState.setBus_b (v : Word n) : (m.setBus v).b = m.b := rfl
@[simp] theorem CoreState.setBus_ir (v : Word n) : (m.setBus v).ir = m.ir := rfl
@[simp] theorem CoreState.setBus_pc (v : Word n) : (m.setBus v).pc = m.pc := rfl
@[simp] theorem CoreState.setBus_mar (v : Word n) : (m.setBus v).mar = m.mar := rfl
@[simp] theorem CoreState.setBus_mem (v : Word n) : (m.setBus v).mem = m.mem := rfl
@[simp] theorem CoreState.setBus_upc (v : Word n) : (m.setBus v).upc = m.upc := rfl
@[simp] theorem CoreState.setBus_cw (v : Word n) : (m.setBus v).cw = m.cw := rfl
@[simp] theorem CoreState.setBus_halt (v : Word n) : (m.setBus v).halt = m.halt := rfl
@[simp] theorem CoreState.setBus_out (v : Word n) : (m.setBus v).out = m.out := rfl

@[simp] theorem CoreState.setA_bus (v : Word n) : (m.setA v).bus = m.bus := rfl
@[simp] theorem CoreState.setA_a (v : Word n) : (m.setA v).a = v := rfl
@[simp] theorem CoreState.setA_b (v : Word n) : (m.setA v).b = m.b := rfl
@[simp] theorem CoreState.setA_ir (v : Word n) : (m.setA v).ir = m.ir := rfl
@[simp] theorem CoreState.setA_pc (v : Word n) : (m.setA v).pc = m.pc := rfl
@[simp] theorem CoreState.setA_mar (v : Word n) : (m.setA v).mar = m.mar := rfl
@[simp] theorem CoreState.setA_mem (v : Word n) : (m.setA v).mem = m.mem := rfl
@[simp] theorem CoreState.setA_upc (v : Word n) : (m.setA v).upc = m.upc := rfl
@[simp] theorem CoreState.setA_cw (v : Word n) : (m.setA v).cw = m.cw := rfl
@[simp] theorem CoreState.setA_halt (v : Word n) : (m.setA v).halt = m.halt := rfl
@[simp] theorem CoreState.setA_out (v : Word n) : (m.setA v).out = m.out := rfl

@[simp] theorem CoreState.setB_bus (v : Word n) : (m.setB v).bus = m.bus := rfl
@[simp] theorem CoreState.setB_a (v : Word n) : (m.setB v).a = m.a := rfl
@[simp] theorem CoreState.setB_b (v : Word n) : (m.setB v).b = v := rfl
@[simp] theorem CoreState.setB_ir (v : Word n) : (m.setB v).ir = m.ir := rfl
@[simp] theorem CoreState.setB_pc (v : Word n) : (m.setB v).pc = m.pc := rfl
@[simp] theorem CoreState.setB_mar (v : Word n) : (m.setB v).mar = m.mar := rfl
@[simp] theorem CoreState.setB_mem (v : Word n) : (m.setB v).mem = m.mem := rfl
@[simp] theorem CoreState.setB_upc (v : Word n) : (m.setB v).upc = m.upc := rfl
@[simp] theorem CoreState.setB_cw (v : Word n) : (m.setB v).cw = m.cw := rfl
@[simp] theorem CoreState.setB_halt (v : Word n) : (m.setB v).halt = m.halt := rfl
@[simp] theorem CoreState.setB_out (v : Word n) : (m.setB v).out = m.out := rfl

@[simp] theorem CoreState.setIr_bus (v : Word n) : (m.setIr v).bus = m.bus := rfl
@[simp] theorem CoreState.setIr_a (v : Word n) : (m.setIr v).a = m.a := rfl
@[simp] theorem CoreState.setIr_b (v : Word n) : (m.setIr v).b = m.b := rfl
@[simp] theorem CoreState.setIr_ir (v : Word n) : (m.setIr v).ir = v := rfl
@[simp] theorem CoreState.setIr_pc (v : Word n) : (m.setIr v).pc = m.pc := rfl
@[simp] theorem CoreState.setIr_mar (v : Word n) : (m.setIr v).mar = m.mar := rfl
@[simp] theorem CoreState.setIr_mem (v : Word n) : (m.setIr v).mem = m.mem := rfl
@[simp] theorem CoreState.setIr_upc (v : Word n) : (m.setIr v).upc = m.upc := rfl
@[simp] theorem CoreState.setIr_cw (v : Word n) : (m.setIr v).cw = m.cw := rfl
@[simp] theorem CoreState.setIr_halt (v : Word n) : (m.setIr v).halt = m.halt := rfl
@[simp] theorem CoreState.setIr_out (v : Word n) : (m.setIr v).out = m.out := rfl

@[simp] theorem CoreState.setPc_bus (v : Word n) : (m.setPc v).bus = m.bus := rfl
@[simp] theorem CoreState.setPc_a (v : Word n) : (m.setPc v).a = m.a := rfl
@[simp] theorem CoreState.setPc_b (v : Word n) : (m.setPc v).b = m.b := rfl
@[simp] theorem CoreState.setPc_ir (v : Word n) : (m.setPc v).ir = m.ir := rfl
@[simp] theorem CoreState.setPc_pc (v : Word n) : (m.setPc v).pc = v := rfl
@[simp] theorem CoreState.setPc_mar (v : Word n) : (m.setPc v).mar = m.mar := rfl
@[simp] theorem CoreState.setPc_mem (v : Word n) : (m.setPc v).mem = m.mem := rfl
@[simp] theorem CoreState.setPc_upc (v : Word n) : (m.setPc v).upc = m.upc := rfl
@[simp] theorem CoreState.setPc_cw (v : Word n) : (m.setPc v).cw = m.cw := rfl
@[simp] theorem CoreState.setPc_halt (v : Word n) : (m.setPc v).halt = m.halt := rfl
@[simp] theorem CoreState.setPc_out (v : Word n) : (m.setPc v).out = m.out := rfl

@[simp] theorem CoreState.setMar_bus (v : Word n) : (m.setMar v).bus = m.bus := rfl
@[simp] theorem CoreState.setMar_a (v : Word n) : (m.setMar v).a = m.a := rfl
@[simp] theorem CoreState.setMar_b (v : Word n) : (m.setMar v).b = m.b := rfl
@[simp] theorem CoreState.setMar_ir (v : Word n) : (m.setMar v).ir = m.ir := rfl
@[simp] theorem CoreState.setMar_pc (v : Word n) : (m.setMar v).pc = m.pc := rfl
@[simp] theorem CoreState.setMar_mar (v : Word n) : (m.setMar v).mar = v := rfl
@[simp] theorem CoreState.setMar_mem (v : Word n) : (m.setMar v).mem = m.mem := rfl
@[simp] theorem CoreState.setMar_upc (v : Word n) : (m.setMar v).upc = m.upc := rfl
@[simp] theorem CoreState.setMar_cw (v : Word n) : (m.setMar v).cw = m.cw := rfl
@[simp] theorem CoreState.setMar_halt (v : Word n) : (m.setMar v).halt = m.halt := rfl
@[simp] theorem CoreState.setMar_out (v : Word n) : (m.setMar v).out = m.out := rfl

@[simp] theorem CoreState.setMem_bus (v : List (Nat × Word n)) : (m.setMem v).bus = m.bus := rfl
@[simp] theorem CoreState.setMem_a (v : List (Nat × Word n)) : (m.setMem v).a = m.a := rfl
@[simp] theorem CoreState.setMem_b (v : List (Nat × Word n)) : (m.setMem v).b = m.b := rfl
@[simp] theorem CoreState.setMem_ir (v : List (Nat × Word n)) : (m.setMem v).ir = m.ir := rfl
@[simp] theorem CoreState.setMem_pc (v : List (Nat × Word n)) : (m.setMem v).pc = m.pc := rfl
@[simp] theorem CoreState.setMem_mar (v : List (Nat × Word n)) : (m.setMem v).mar = m.mar := rfl
@[simp] theorem CoreState.setMem_mem (v : List (Nat × Word n)) : (m.setMem v).mem = v := rfl
@[simp] theorem CoreState.setMem_upc (v : List (Nat × Word n)) : (m.setMem v).upc = m.upc := rfl
@[simp] theorem CoreState.setMem_cw (v : List (Nat × Word n)) : (m.setMem v).cw = m.cw := rfl
@[simp] theorem CoreState.setMem_halt (v : List (Nat × Word n)) : (m.setMem v).halt = m.halt := rfl
@[simp] theorem CoreState.setMem_out (v : List (Nat × Word n)) : (m.setMem v).out = m.out := rfl

@[simp] theorem CoreState.setUpc_bus (v : Nat) : (m.setUpc v).bus = m.bus := rfl
@[simp] theorem CoreState.setUpc_a (v : Nat) : (m.setUpc v).a = m.a := rfl
@[simp] theorem CoreState.setUpc_b (v : Nat) : (m.setUpc v).b = m.b := rfl
@[simp] theorem CoreState.setUpc_ir (v : Nat) : (m.setUpc v).ir = m.ir := rfl
@[simp] theorem CoreState.setUpc_pc (v : Nat) : (m.setUpc v).pc = m.pc := rfl
@[simp] theorem CoreState.setUpc_mar (v : Nat) : (m.setUpc v).mar = m.mar := rfl
@[simp] theorem CoreState.setUpc_mem (v : Nat) : (m.setUpc v).mem = m.mem := rfl
@[simp] theorem CoreState.setUpc_upc (v : Nat) : (m.setUpc v).upc = v := rfl
@[simp] theorem CoreState.setUpc_cw (v : Nat) : (m.setUpc v).cw = m.cw := rfl
@[simp] theorem CoreState.setUpc_halt (v : Nat) : (m.setUpc v).halt = m.halt := rfl
@[simp] theorem CoreState.setUpc_out (v : Nat) : (m.setUpc v).out = m.out := rfl

@[simp] theorem CoreState.setCw_bus (v : ControlWord) : (m.setCw v).bus = m.bus := rfl
@[simp] theorem CoreState.setCw_a (v : ControlWord) : (m.setCw v).a = m.a := rfl
@[simp] theorem CoreState.setCw_b (v : ControlWord) : (m.setCw v).b = m.b := rfl
@[simp] theorem CoreState.setCw_ir (v : ControlWord) : (m.setCw v).ir = m.ir := rfl
@[simp] theorem CoreState.setCw_pc (v : ControlWord) : (m.setCw v).pc = m.pc := rfl
@[simp] theorem CoreState.setCw_mar (v : ControlWord) : (m.setCw v).mar = m.mar := rfl
@[simp] theorem CoreState.setCw_mem (v : ControlWord) : (m.setCw v).mem = m.mem := rfl
@[simp] theorem CoreState.setCw_upc (v : ControlWord) : (m.setCw v).upc = m.upc := rfl
@[simp] theorem CoreState.setCw_cw (v : ControlWord) : (m.setCw v).cw = v := rfl
@[simp] theorem CoreState.setCw_halt (v : ControlWord) : (m.setCw v).halt = m.halt := rfl
@[simp] theorem CoreState.setCw_out (v : ControlWord) : (m.setCw v).out = m.out := rfl

@[simp] theorem CoreState.setHalt_bus (v : Bool) : (m.setHalt v).bus = m.bus := rfl
@[simp] theorem CoreState.setHalt_a (v : Bool) : (m.setHalt v).a = m.a := rfl
@[simp] theorem CoreState.setHalt_b (v : Bool) : (m.setHalt v).b = m.b := rfl
@[simp] theorem CoreState.setHalt_ir (v : Bool) : (m.setHalt v).ir = m.ir := rfl
@[simp] theorem CoreState.setHalt_pc (v : Bool) : (m.setHalt v).pc = m.pc := rfl
@[simp] theorem CoreState.setHalt_mar (v : Bool) : (m.setHalt v).mar = m.mar := rfl
@[simp] theorem CoreState.setHalt_mem (v : Bool) : (m.setHalt v).mem = m.mem := rfl
@[simp] theorem CoreState.setHalt_upc (v : Bool) : (m.setHalt v).upc = m.upc := rfl
@[simp] theorem CoreState.setHalt_cw (v : Bool) : (m.setHalt v).cw = m.cw := rfl
@[simp] theorem CoreState.setHalt_halt (v : Bool) : (m.setHalt v).halt = v := rfl
@[simp] theorem CoreState.setHalt_out (v : Bool) : (m.setHalt v).out = m.out := rfl

@[simp] theorem CoreState.setOut_bus (v : Option (OutReg n)) : (m.setOut v).bus = m.bus := rfl
@[simp] theorem CoreState.setOut_a (v : Option (OutReg n)) : (m.setOut v).a = m.a := rfl
@[simp] theorem CoreState.setOut_b (v : Option (OutReg n)) : (m.setOut v).b = m.b := rfl
@[simp] theorem CoreState.setOut_ir (v : Option (OutReg n)) : (m.setOut v).ir = m.ir := rfl
@[simp] theorem CoreState.setOut_pc (v : Option (OutReg n)) : (m.setOut v).pc = m.pc := rfl
@[simp] theorem CoreState.setOut_mar (v : Option (OutReg n)) : (m.setOut v).mar = m.mar := rfl
@[simp] theorem CoreState.setOut_mem (v : Option (OutReg n)) : (m.setOut v).mem = m.mem := rfl
@[simp] theorem CoreState.setOut_upc (v : Option (OutReg n)) : (m.setOut v).upc = m.upc := rfl
@[simp] theorem CoreState.setOut_cw (v : Option (OutReg n)) : (m.setOut v).cw = m.cw := rfl
@[simp] theorem CoreState.setOut_halt (v : Option (OutReg n)) : (m.setOut v).halt = m.halt := rfl
@[simp] theorem CoreState.setOut_out (v : Option (OutReg n)) : (m.setOut v).out = v := rfl

end CoreFields

section StateFields
variable (s : State)

@[simp] theorem State.setCore_width (m : CoreState s.width) : (s.setCore m).width = s.width := rfl
@[simp] theorem State.setCore_cfg (m : CoreState s.width) : (s.setCore m).cfg = s.cfg := rfl
@[simp] theorem State.setCore_core (m : CoreState s.width) : (s.setCore m).core = m := rfl
@[simp] theorem State.setCore_clock (m : CoreState s.width) : (s.setCore m).clock = s.clock := rfl
@[simp] theorem State.setEnabled_width (v : Bool) : (s.setEnabled v).width = s.width := rfl
@[simp] theorem State.setEnabled_cfg (v : Bool) : (s.setEnabled v).cfg = s.cfg := rfl
@[simp] theorem State.setEnabled_core (v : Bool) : (s.setEnabled v).core = s.core := rfl
@[simp] theorem State.setEnabled_enabled (v : Bool) : (s.setEnabled v).clock.enabled = v := rfl
@[simp] theorem State.setEnabled_interval (v : Bool) : (s.setEnabled v).clock.interval = s.clock.interval := rfl
@[simp] theorem State.setEnabled_busy (v : Bool) : (s.setEnabled v).clock.busy = s.clock.busy := rfl
@[simp] theorem State.setInterval_width (v : Nat) : (s.setInterval v).width = s.width := rfl
@[simp] theorem State.setInterval_cfg (v : Nat) : (s.setInterval v).cfg = s.cfg := rfl
@[simp] theorem State.setInterval_core (v : Nat) : (s.setInterval v).core = s.core := rfl
@[simp] theorem State.setInterval_enabled (v : Nat) : (s.setInterval v).clock.enabled = s.clock.enabled := rfl
@[simp] theorem State.setInterval_interval (v : Nat) : (s.setInterval v).clock.interval = v := rfl
@[simp] theorem State.setInterval_busy (v : Nat) : (s.setInterval v).clock.busy = s.clock.busy := rfl
@[simp] theorem State.setBusy_width (v : Bool) : (s.setBusy v).width = s.width := rfl
@[simp] theorem State.setBusy_cfg (v : Bool) : (s.setBusy v).cfg = s.cfg := rfl
@[simp] theorem State.setBusy_core (v : Bool) : (s.setBusy v).core = s.core := rfl
@[simp] theorem State.setBusy_enabled (v : Bool) : (s.setBusy v).clock.enabled = s.clock.enabled := rfl
@[simp] theorem State.setBusy_interval (v : Bool) : (s.setBusy v).clock.interval = s.clock.interval := rfl
@[simp] theorem State.setBusy_busy (v : Bool) : (s.setBusy v).clock.busy = v := rfl

@[simp] theorem State.withOutcome_next (m : CoreState s.width) :
    s.withOutcome (.next m) = .next (s.setCore m) := rfl
@[simp] theorem State.withOutcome_fault (f : Fault) : s.withOutcome (.fault f) = .fault f := rfl
@[simp] theorem State.withOutcome_refused (r : Refusal) : s.withOutcome (.refused r) = .refused r := rfl

/-- If an outcome lifted to the whole state goes on, the machine's own outcome did, and nothing but `core` changed. -/
theorem State.withOutcome_eq_next {s t : State} {o : Host.Outcome (CoreState s.width) Fault Refusal}
    (h : s.withOutcome o = .next t) : ∃ m, o = .next m ∧ t = s.setCore m := by
  cases o with
  | next m => exact ⟨m, rfl, by simpa using h.symm⟩
  | fault f => simp at h
  | refused r => simp at h

end StateFields

section Blank
variable (n : Nat) (hasOut : Bool)

@[simp] theorem CoreState.blank_bus : (CoreState.blank n hasOut).bus = 0 := rfl
@[simp] theorem CoreState.blank_a : (CoreState.blank n hasOut).a = 0 := rfl
@[simp] theorem CoreState.blank_b : (CoreState.blank n hasOut).b = 0 := rfl
@[simp] theorem CoreState.blank_ir : (CoreState.blank n hasOut).ir = 0 := rfl
@[simp] theorem CoreState.blank_pc : (CoreState.blank n hasOut).pc = 0 := rfl
@[simp] theorem CoreState.blank_mar : (CoreState.blank n hasOut).mar = 0 := rfl
@[simp] theorem CoreState.blank_mem : (CoreState.blank n hasOut).mem = [] := rfl
@[simp] theorem CoreState.blank_upc : (CoreState.blank n hasOut).upc = 0 := rfl
@[simp] theorem CoreState.blank_cw : (CoreState.blank n hasOut).cw = ControlWord.empty := rfl
@[simp] theorem CoreState.blank_halt : (CoreState.blank n hasOut).halt = false := rfl
@[simp] theorem CoreState.blank_out : (CoreState.blank n hasOut).out = (if hasOut then some { value := 0, trace := [] } else none) := rfl

end Blank

end Sys2Proof.Machine
end

