-- ==== Sys2Proof/Laws/Actions.lean ====
section
/-! SUPPORT. Laws/Actions.lean: what each action of a tick (spec/40 R95) does to each field: the one element it writes when its
line is in `CW`, and nothing else. -/
namespace Sys2Proof.Machine

section Actions
variable {n : Nat} (m : CoreState n) (map : List (Nat × AluOp))

@[simp] theorem CoreState.captureA_bus : (m.captureA).bus = m.bus := by
  unfold CoreState.captureA; split <;> rfl
@[simp] theorem CoreState.captureA_a : (m.captureA).a = if m.cw.ai then m.bus else m.a := by
  unfold CoreState.captureA; split <;> rfl
@[simp] theorem CoreState.captureA_b : (m.captureA).b = m.b := by
  unfold CoreState.captureA; split <;> rfl
@[simp] theorem CoreState.captureA_ir : (m.captureA).ir = m.ir := by
  unfold CoreState.captureA; split <;> rfl
@[simp] theorem CoreState.captureA_pc : (m.captureA).pc = m.pc := by
  unfold CoreState.captureA; split <;> rfl
@[simp] theorem CoreState.captureA_mar : (m.captureA).mar = m.mar := by
  unfold CoreState.captureA; split <;> rfl
@[simp] theorem CoreState.captureA_mem : (m.captureA).mem = m.mem := by
  unfold CoreState.captureA; split <;> rfl
@[simp] theorem CoreState.captureA_upc : (m.captureA).upc = m.upc := by
  unfold CoreState.captureA; split <;> rfl
@[simp] theorem CoreState.captureA_cw : (m.captureA).cw = m.cw := by
  unfold CoreState.captureA; split <;> rfl
@[simp] theorem CoreState.captureA_halt : (m.captureA).halt = m.halt := by
  unfold CoreState.captureA; split <;> rfl
@[simp] theorem CoreState.captureA_out : (m.captureA).out = m.out := by
  unfold CoreState.captureA; split <;> rfl

@[simp] theorem CoreState.captureB_bus : (m.captureB).bus = m.bus := by
  unfold CoreState.captureB; split <;> rfl
@[simp] theorem CoreState.captureB_a : (m.captureB).a = m.a := by
  unfold CoreState.captureB; split <;> rfl
@[simp] theorem CoreState.captureB_b : (m.captureB).b = if m.cw.bi then m.bus else m.b := by
  unfold CoreState.captureB; split <;> rfl
@[simp] theorem CoreState.captureB_ir : (m.captureB).ir = m.ir := by
  unfold CoreState.captureB; split <;> rfl
@[simp] theorem CoreState.captureB_pc : (m.captureB).pc = m.pc := by
  unfold CoreState.captureB; split <;> rfl
@[simp] theorem CoreState.captureB_mar : (m.captureB).mar = m.mar := by
  unfold CoreState.captureB; split <;> rfl
@[simp] theorem CoreState.captureB_mem : (m.captureB).mem = m.mem := by
  unfold CoreState.captureB; split <;> rfl
@[simp] theorem CoreState.captureB_upc : (m.captureB).upc = m.upc := by
  unfold CoreState.captureB; split <;> rfl
@[simp] theorem CoreState.captureB_cw : (m.captureB).cw = m.cw := by
  unfold CoreState.captureB; split <;> rfl
@[simp] theorem CoreState.captureB_halt : (m.captureB).halt = m.halt := by
  unfold CoreState.captureB; split <;> rfl
@[simp] theorem CoreState.captureB_out : (m.captureB).out = m.out := by
  unfold CoreState.captureB; split <;> rfl

@[simp] theorem CoreState.captureIr_bus : (m.captureIr).bus = m.bus := by
  unfold CoreState.captureIr; split <;> rfl
@[simp] theorem CoreState.captureIr_a : (m.captureIr).a = m.a := by
  unfold CoreState.captureIr; split <;> rfl
@[simp] theorem CoreState.captureIr_b : (m.captureIr).b = m.b := by
  unfold CoreState.captureIr; split <;> rfl
@[simp] theorem CoreState.captureIr_ir : (m.captureIr).ir = if m.cw.ii then m.bus else m.ir := by
  unfold CoreState.captureIr; split <;> rfl
@[simp] theorem CoreState.captureIr_pc : (m.captureIr).pc = m.pc := by
  unfold CoreState.captureIr; split <;> rfl
@[simp] theorem CoreState.captureIr_mar : (m.captureIr).mar = m.mar := by
  unfold CoreState.captureIr; split <;> rfl
@[simp] theorem CoreState.captureIr_mem : (m.captureIr).mem = m.mem := by
  unfold CoreState.captureIr; split <;> rfl
@[simp] theorem CoreState.captureIr_upc : (m.captureIr).upc = m.upc := by
  unfold CoreState.captureIr; split <;> rfl
@[simp] theorem CoreState.captureIr_cw : (m.captureIr).cw = m.cw := by
  unfold CoreState.captureIr; split <;> rfl
@[simp] theorem CoreState.captureIr_halt : (m.captureIr).halt = m.halt := by
  unfold CoreState.captureIr; split <;> rfl
@[simp] theorem CoreState.captureIr_out : (m.captureIr).out = m.out := by
  unfold CoreState.captureIr; split <;> rfl

@[simp] theorem CoreState.capturePc_bus : (m.capturePc).bus = m.bus := by
  unfold CoreState.capturePc; split <;> rfl
@[simp] theorem CoreState.capturePc_a : (m.capturePc).a = m.a := by
  unfold CoreState.capturePc; split <;> rfl
@[simp] theorem CoreState.capturePc_b : (m.capturePc).b = m.b := by
  unfold CoreState.capturePc; split <;> rfl
@[simp] theorem CoreState.capturePc_ir : (m.capturePc).ir = m.ir := by
  unfold CoreState.capturePc; split <;> rfl
@[simp] theorem CoreState.capturePc_pc : (m.capturePc).pc = if m.cw.ci then m.bus else m.pc := by
  unfold CoreState.capturePc; split <;> rfl
@[simp] theorem CoreState.capturePc_mar : (m.capturePc).mar = m.mar := by
  unfold CoreState.capturePc; split <;> rfl
@[simp] theorem CoreState.capturePc_mem : (m.capturePc).mem = m.mem := by
  unfold CoreState.capturePc; split <;> rfl
@[simp] theorem CoreState.capturePc_upc : (m.capturePc).upc = m.upc := by
  unfold CoreState.capturePc; split <;> rfl
@[simp] theorem CoreState.capturePc_cw : (m.capturePc).cw = m.cw := by
  unfold CoreState.capturePc; split <;> rfl
@[simp] theorem CoreState.capturePc_halt : (m.capturePc).halt = m.halt := by
  unfold CoreState.capturePc; split <;> rfl
@[simp] theorem CoreState.capturePc_out : (m.capturePc).out = m.out := by
  unfold CoreState.capturePc; split <;> rfl

@[simp] theorem CoreState.captureMar_bus : (m.captureMar).bus = m.bus := by
  unfold CoreState.captureMar; split <;> rfl
@[simp] theorem CoreState.captureMar_a : (m.captureMar).a = m.a := by
  unfold CoreState.captureMar; split <;> rfl
@[simp] theorem CoreState.captureMar_b : (m.captureMar).b = m.b := by
  unfold CoreState.captureMar; split <;> rfl
@[simp] theorem CoreState.captureMar_ir : (m.captureMar).ir = m.ir := by
  unfold CoreState.captureMar; split <;> rfl
@[simp] theorem CoreState.captureMar_pc : (m.captureMar).pc = m.pc := by
  unfold CoreState.captureMar; split <;> rfl
@[simp] theorem CoreState.captureMar_mar : (m.captureMar).mar = if m.cw.mi then m.bus else m.mar := by
  unfold CoreState.captureMar; split <;> rfl
@[simp] theorem CoreState.captureMar_mem : (m.captureMar).mem = m.mem := by
  unfold CoreState.captureMar; split <;> rfl
@[simp] theorem CoreState.captureMar_upc : (m.captureMar).upc = m.upc := by
  unfold CoreState.captureMar; split <;> rfl
@[simp] theorem CoreState.captureMar_cw : (m.captureMar).cw = m.cw := by
  unfold CoreState.captureMar; split <;> rfl
@[simp] theorem CoreState.captureMar_halt : (m.captureMar).halt = m.halt := by
  unfold CoreState.captureMar; split <;> rfl
@[simp] theorem CoreState.captureMar_out : (m.captureMar).out = m.out := by
  unfold CoreState.captureMar; split <;> rfl

@[simp] theorem CoreState.captureRam_bus : (m.captureRam).bus = m.bus := by
  unfold CoreState.captureRam; split <;> rfl
@[simp] theorem CoreState.captureRam_a : (m.captureRam).a = m.a := by
  unfold CoreState.captureRam; split <;> rfl
@[simp] theorem CoreState.captureRam_b : (m.captureRam).b = m.b := by
  unfold CoreState.captureRam; split <;> rfl
@[simp] theorem CoreState.captureRam_ir : (m.captureRam).ir = m.ir := by
  unfold CoreState.captureRam; split <;> rfl
@[simp] theorem CoreState.captureRam_pc : (m.captureRam).pc = m.pc := by
  unfold CoreState.captureRam; split <;> rfl
@[simp] theorem CoreState.captureRam_mar : (m.captureRam).mar = m.mar := by
  unfold CoreState.captureRam; split <;> rfl
@[simp] theorem CoreState.captureRam_mem : (m.captureRam).mem = if m.cw.ri then memWrite m.mem m.mar.toNat m.bus else m.mem := by
  unfold CoreState.captureRam; split <;> rfl
@[simp] theorem CoreState.captureRam_upc : (m.captureRam).upc = m.upc := by
  unfold CoreState.captureRam; split <;> rfl
@[simp] theorem CoreState.captureRam_cw : (m.captureRam).cw = m.cw := by
  unfold CoreState.captureRam; split <;> rfl
@[simp] theorem CoreState.captureRam_halt : (m.captureRam).halt = m.halt := by
  unfold CoreState.captureRam; split <;> rfl
@[simp] theorem CoreState.captureRam_out : (m.captureRam).out = m.out := by
  unfold CoreState.captureRam; split <;> rfl

@[simp] theorem CoreState.captureOut_bus : (m.captureOut).bus = m.bus := by
  unfold CoreState.captureOut; split <;> rfl
@[simp] theorem CoreState.captureOut_a : (m.captureOut).a = m.a := by
  unfold CoreState.captureOut; split <;> rfl
@[simp] theorem CoreState.captureOut_b : (m.captureOut).b = m.b := by
  unfold CoreState.captureOut; split <;> rfl
@[simp] theorem CoreState.captureOut_ir : (m.captureOut).ir = m.ir := by
  unfold CoreState.captureOut; split <;> rfl
@[simp] theorem CoreState.captureOut_pc : (m.captureOut).pc = m.pc := by
  unfold CoreState.captureOut; split <;> rfl
@[simp] theorem CoreState.captureOut_mar : (m.captureOut).mar = m.mar := by
  unfold CoreState.captureOut; split <;> rfl
@[simp] theorem CoreState.captureOut_mem : (m.captureOut).mem = m.mem := by
  unfold CoreState.captureOut; split <;> rfl
@[simp] theorem CoreState.captureOut_upc : (m.captureOut).upc = m.upc := by
  unfold CoreState.captureOut; split <;> rfl
@[simp] theorem CoreState.captureOut_cw : (m.captureOut).cw = m.cw := by
  unfold CoreState.captureOut; split <;> rfl
@[simp] theorem CoreState.captureOut_halt : (m.captureOut).halt = m.halt := by
  unfold CoreState.captureOut; split <;> rfl
@[simp] theorem CoreState.captureOut_out : (m.captureOut).out = if m.cw.oi then m.out.map (fun o => o.emit m.bus) else m.out := by
  unfold CoreState.captureOut; split <;> rfl

@[simp] theorem CoreState.driveA_bus : (m.driveA).bus = if m.cw.ao then m.a else m.bus := by
  unfold CoreState.driveA; split <;> rfl
@[simp] theorem CoreState.driveA_a : (m.driveA).a = m.a := by
  unfold CoreState.driveA; split <;> rfl
@[simp] theorem CoreState.driveA_b : (m.driveA).b = m.b := by
  unfold CoreState.driveA; split <;> rfl
@[simp] theorem CoreState.driveA_ir : (m.driveA).ir = m.ir := by
  unfold CoreState.driveA; split <;> rfl
@[simp] theorem CoreState.driveA_pc : (m.driveA).pc = m.pc := by
  unfold CoreState.driveA; split <;> rfl
@[simp] theorem CoreState.driveA_mar : (m.driveA).mar = m.mar := by
  unfold CoreState.driveA; split <;> rfl
@[simp] theorem CoreState.driveA_mem : (m.driveA).mem = m.mem := by
  unfold CoreState.driveA; split <;> rfl
@[simp] theorem CoreState.driveA_upc : (m.driveA).upc = m.upc := by
  unfold CoreState.driveA; split <;> rfl
@[simp] theorem CoreState.driveA_cw : (m.driveA).cw = m.cw := by
  unfold CoreState.driveA; split <;> rfl
@[simp] theorem CoreState.driveA_halt : (m.driveA).halt = m.halt := by
  unfold CoreState.driveA; split <;> rfl
@[simp] theorem CoreState.driveA_out : (m.driveA).out = m.out := by
  unfold CoreState.driveA; split <;> rfl

@[simp] theorem CoreState.driveB_bus : (m.driveB).bus = if m.cw.bo then m.b else m.bus := by
  unfold CoreState.driveB; split <;> rfl
@[simp] theorem CoreState.driveB_a : (m.driveB).a = m.a := by
  unfold CoreState.driveB; split <;> rfl
@[simp] theorem CoreState.driveB_b : (m.driveB).b = m.b := by
  unfold CoreState.driveB; split <;> rfl
@[simp] theorem CoreState.driveB_ir : (m.driveB).ir = m.ir := by
  unfold CoreState.driveB; split <;> rfl
@[simp] theorem CoreState.driveB_pc : (m.driveB).pc = m.pc := by
  unfold CoreState.driveB; split <;> rfl
@[simp] theorem CoreState.driveB_mar : (m.driveB).mar = m.mar := by
  unfold CoreState.driveB; split <;> rfl
@[simp] theorem CoreState.driveB_mem : (m.driveB).mem = m.mem := by
  unfold CoreState.driveB; split <;> rfl
@[simp] theorem CoreState.driveB_upc : (m.driveB).upc = m.upc := by
  unfold CoreState.driveB; split <;> rfl
@[simp] theorem CoreState.driveB_cw : (m.driveB).cw = m.cw := by
  unfold CoreState.driveB; split <;> rfl
@[simp] theorem CoreState.driveB_halt : (m.driveB).halt = m.halt := by
  unfold CoreState.driveB; split <;> rfl
@[simp] theorem CoreState.driveB_out : (m.driveB).out = m.out := by
  unfold CoreState.driveB; split <;> rfl

@[simp] theorem CoreState.driveIr_bus : (m.driveIr).bus = if m.cw.io then operandWord m.ir else m.bus := by
  unfold CoreState.driveIr; split <;> rfl
@[simp] theorem CoreState.driveIr_a : (m.driveIr).a = m.a := by
  unfold CoreState.driveIr; split <;> rfl
@[simp] theorem CoreState.driveIr_b : (m.driveIr).b = m.b := by
  unfold CoreState.driveIr; split <;> rfl
@[simp] theorem CoreState.driveIr_ir : (m.driveIr).ir = m.ir := by
  unfold CoreState.driveIr; split <;> rfl
@[simp] theorem CoreState.driveIr_pc : (m.driveIr).pc = m.pc := by
  unfold CoreState.driveIr; split <;> rfl
@[simp] theorem CoreState.driveIr_mar : (m.driveIr).mar = m.mar := by
  unfold CoreState.driveIr; split <;> rfl
@[simp] theorem CoreState.driveIr_mem : (m.driveIr).mem = m.mem := by
  unfold CoreState.driveIr; split <;> rfl
@[simp] theorem CoreState.driveIr_upc : (m.driveIr).upc = m.upc := by
  unfold CoreState.driveIr; split <;> rfl
@[simp] theorem CoreState.driveIr_cw : (m.driveIr).cw = m.cw := by
  unfold CoreState.driveIr; split <;> rfl
@[simp] theorem CoreState.driveIr_halt : (m.driveIr).halt = m.halt := by
  unfold CoreState.driveIr; split <;> rfl
@[simp] theorem CoreState.driveIr_out : (m.driveIr).out = m.out := by
  unfold CoreState.driveIr; split <;> rfl

@[simp] theorem CoreState.drivePc_bus : (m.drivePc).bus = if m.cw.co then m.pc else m.bus := by
  unfold CoreState.drivePc; split <;> rfl
@[simp] theorem CoreState.drivePc_a : (m.drivePc).a = m.a := by
  unfold CoreState.drivePc; split <;> rfl
@[simp] theorem CoreState.drivePc_b : (m.drivePc).b = m.b := by
  unfold CoreState.drivePc; split <;> rfl
@[simp] theorem CoreState.drivePc_ir : (m.drivePc).ir = m.ir := by
  unfold CoreState.drivePc; split <;> rfl
@[simp] theorem CoreState.drivePc_pc : (m.drivePc).pc = m.pc := by
  unfold CoreState.drivePc; split <;> rfl
@[simp] theorem CoreState.drivePc_mar : (m.drivePc).mar = m.mar := by
  unfold CoreState.drivePc; split <;> rfl
@[simp] theorem CoreState.drivePc_mem : (m.drivePc).mem = m.mem := by
  unfold CoreState.drivePc; split <;> rfl
@[simp] theorem CoreState.drivePc_upc : (m.drivePc).upc = m.upc := by
  unfold CoreState.drivePc; split <;> rfl
@[simp] theorem CoreState.drivePc_cw : (m.drivePc).cw = m.cw := by
  unfold CoreState.drivePc; split <;> rfl
@[simp] theorem CoreState.drivePc_halt : (m.drivePc).halt = m.halt := by
  unfold CoreState.drivePc; split <;> rfl
@[simp] theorem CoreState.drivePc_out : (m.drivePc).out = m.out := by
  unfold CoreState.drivePc; split <;> rfl

@[simp] theorem CoreState.driveRam_bus : (m.driveRam).bus = if m.cw.ro then memRead m.mem m.mar.toNat else m.bus := by
  unfold CoreState.driveRam; split <;> rfl
@[simp] theorem CoreState.driveRam_a : (m.driveRam).a = m.a := by
  unfold CoreState.driveRam; split <;> rfl
@[simp] theorem CoreState.driveRam_b : (m.driveRam).b = m.b := by
  unfold CoreState.driveRam; split <;> rfl
@[simp] theorem CoreState.driveRam_ir : (m.driveRam).ir = m.ir := by
  unfold CoreState.driveRam; split <;> rfl
@[simp] theorem CoreState.driveRam_pc : (m.driveRam).pc = m.pc := by
  unfold CoreState.driveRam; split <;> rfl
@[simp] theorem CoreState.driveRam_mar : (m.driveRam).mar = m.mar := by
  unfold CoreState.driveRam; split <;> rfl
@[simp] theorem CoreState.driveRam_mem : (m.driveRam).mem = m.mem := by
  unfold CoreState.driveRam; split <;> rfl
@[simp] theorem CoreState.driveRam_upc : (m.driveRam).upc = m.upc := by
  unfold CoreState.driveRam; split <;> rfl
@[simp] theorem CoreState.driveRam_cw : (m.driveRam).cw = m.cw := by
  unfold CoreState.driveRam; split <;> rfl
@[simp] theorem CoreState.driveRam_halt : (m.driveRam).halt = m.halt := by
  unfold CoreState.driveRam; split <;> rfl
@[simp] theorem CoreState.driveRam_out : (m.driveRam).out = m.out := by
  unfold CoreState.driveRam; split <;> rfl

@[simp] theorem CoreState.driveAlu_bus : (m.driveAlu map).bus = if m.cw.eo then alu map (modeCode m.cw) m.a m.b else m.bus := by
  unfold CoreState.driveAlu; split <;> rfl
@[simp] theorem CoreState.driveAlu_a : (m.driveAlu map).a = m.a := by
  unfold CoreState.driveAlu; split <;> rfl
@[simp] theorem CoreState.driveAlu_b : (m.driveAlu map).b = m.b := by
  unfold CoreState.driveAlu; split <;> rfl
@[simp] theorem CoreState.driveAlu_ir : (m.driveAlu map).ir = m.ir := by
  unfold CoreState.driveAlu; split <;> rfl
@[simp] theorem CoreState.driveAlu_pc : (m.driveAlu map).pc = m.pc := by
  unfold CoreState.driveAlu; split <;> rfl
@[simp] theorem CoreState.driveAlu_mar : (m.driveAlu map).mar = m.mar := by
  unfold CoreState.driveAlu; split <;> rfl
@[simp] theorem CoreState.driveAlu_mem : (m.driveAlu map).mem = m.mem := by
  unfold CoreState.driveAlu; split <;> rfl
@[simp] theorem CoreState.driveAlu_upc : (m.driveAlu map).upc = m.upc := by
  unfold CoreState.driveAlu; split <;> rfl
@[simp] theorem CoreState.driveAlu_cw : (m.driveAlu map).cw = m.cw := by
  unfold CoreState.driveAlu; split <;> rfl
@[simp] theorem CoreState.driveAlu_halt : (m.driveAlu map).halt = m.halt := by
  unfold CoreState.driveAlu; split <;> rfl
@[simp] theorem CoreState.driveAlu_out : (m.driveAlu map).out = m.out := by
  unfold CoreState.driveAlu; split <;> rfl

@[simp] theorem CoreState.incrementPc_bus : (m.incrementPc).bus = m.bus := by
  unfold CoreState.incrementPc; split <;> rfl
@[simp] theorem CoreState.incrementPc_a : (m.incrementPc).a = m.a := by
  unfold CoreState.incrementPc; split <;> rfl
@[simp] theorem CoreState.incrementPc_b : (m.incrementPc).b = m.b := by
  unfold CoreState.incrementPc; split <;> rfl
@[simp] theorem CoreState.incrementPc_ir : (m.incrementPc).ir = m.ir := by
  unfold CoreState.incrementPc; split <;> rfl
@[simp] theorem CoreState.incrementPc_pc : (m.incrementPc).pc = if m.cw.ce then m.pc + 1 else m.pc := by
  unfold CoreState.incrementPc; split <;> rfl
@[simp] theorem CoreState.incrementPc_mar : (m.incrementPc).mar = m.mar := by
  unfold CoreState.incrementPc; split <;> rfl
@[simp] theorem CoreState.incrementPc_mem : (m.incrementPc).mem = m.mem := by
  unfold CoreState.incrementPc; split <;> rfl
@[simp] theorem CoreState.incrementPc_upc : (m.incrementPc).upc = m.upc := by
  unfold CoreState.incrementPc; split <;> rfl
@[simp] theorem CoreState.incrementPc_cw : (m.incrementPc).cw = m.cw := by
  unfold CoreState.incrementPc; split <;> rfl
@[simp] theorem CoreState.incrementPc_halt : (m.incrementPc).halt = m.halt := by
  unfold CoreState.incrementPc; split <;> rfl
@[simp] theorem CoreState.incrementPc_out : (m.incrementPc).out = m.out := by
  unfold CoreState.incrementPc; split <;> rfl

@[simp] theorem CoreState.raiseHalt_bus : (m.raiseHalt).bus = m.bus := by
  unfold CoreState.raiseHalt; split <;> rfl
@[simp] theorem CoreState.raiseHalt_a : (m.raiseHalt).a = m.a := by
  unfold CoreState.raiseHalt; split <;> rfl
@[simp] theorem CoreState.raiseHalt_b : (m.raiseHalt).b = m.b := by
  unfold CoreState.raiseHalt; split <;> rfl
@[simp] theorem CoreState.raiseHalt_ir : (m.raiseHalt).ir = m.ir := by
  unfold CoreState.raiseHalt; split <;> rfl
@[simp] theorem CoreState.raiseHalt_pc : (m.raiseHalt).pc = m.pc := by
  unfold CoreState.raiseHalt; split <;> rfl
@[simp] theorem CoreState.raiseHalt_mar : (m.raiseHalt).mar = m.mar := by
  unfold CoreState.raiseHalt; split <;> rfl
@[simp] theorem CoreState.raiseHalt_mem : (m.raiseHalt).mem = m.mem := by
  unfold CoreState.raiseHalt; split <;> rfl
@[simp] theorem CoreState.raiseHalt_upc : (m.raiseHalt).upc = m.upc := by
  unfold CoreState.raiseHalt; split <;> rfl
@[simp] theorem CoreState.raiseHalt_cw : (m.raiseHalt).cw = m.cw := by
  unfold CoreState.raiseHalt; split <;> rfl
@[simp] theorem CoreState.raiseHalt_halt : (m.raiseHalt).halt = (m.halt || m.cw.hlt) := by
  unfold CoreState.raiseHalt; cases m.cw.hlt <;> simp
@[simp] theorem CoreState.raiseHalt_out : (m.raiseHalt).out = m.out := by
  unfold CoreState.raiseHalt; split <;> rfl

end Actions

end Sys2Proof.Machine
end

