-- ==== Sys2Proof/Laws/Alu.lean ====
section
/-! SUPPORT. Laws/Alu.lean: what the ripple-carry loop has computed after `j` positions (spec/43 R171, R172): the carry into
position `j`, and the sum bits below it. -/
namespace Sys2Proof.Machine

variable {n : Nat}

/-- The word with one bit set. -/
theorem getLsbD_ofNat_two_pow {j : Nat} (hj : j < n) (i : Nat) :
    (BitVec.ofNat n (2 ^ j)).getLsbD i = decide (i = j) := by
  simp only [BitVec.getLsbD_ofNat, Nat.testBit_two_pow]
  by_cases h : i = j
  · subst h; simp [hj]
  · simp [h]; intro _; omega

/-- The loop's carry is the carry of the sum of the bits below, and its result holds the sum's bits below `j`. -/
theorem ripple_spec (a b : Word n) (c : Bool) (j : Nat) (hj : j ≤ n) :
    (ripple a b c j).1 = BitVec.carry j a b c ∧
    ∀ i, (ripple a b c j).2.getLsbD i =
      (decide (i < j) && (a.getLsbD i ^^ (b.getLsbD i ^^ BitVec.carry i a b c))) := by
  induction j with
  | zero => simp [ripple, BitVec.carry_zero]
  | succ j ih =>
    obtain ⟨hcarry, hbits⟩ := ih (by omega)
    have hset : ∀ (x : Bool) (i : Nat),
        (if x = true then (ripple a b c j).2 ||| BitVec.ofNat n (2 ^ j) else (ripple a b c j).2).getLsbD i =
          ((ripple a b c j).2.getLsbD i || (x && decide (i = j))) := by
      intro x i
      cases x
      · simp
      · rw [if_pos rfl, BitVec.getLsbD_or, getLsbD_ofNat_two_pow (show j < n by omega)]; simp
    constructor
    · simp only [ripple, hcarry, BitVec.carry_succ]
      cases a.getLsbD j <;> cases b.getLsbD j <;> cases BitVec.carry j a b c <;> rfl
    · intro i
      simp only [ripple, hcarry, hset, hbits]
      by_cases h : i = j
      · subst h
        simp
      · have : decide (i < j + 1) = decide (i < j) := by simp; omega
        rw [this]
        simp [h]

end Sys2Proof.Machine
end

