-- ==== Sys2Proof/Laws/Encoding.lean ====
section
/-! SUPPORT. Laws/Encoding.lean: the halves of a word (spec/30 R70 to R72). -/
namespace Sys2Proof.Machine

variable {n : Nat}

/-- A word is its opcode and its operand put together. -/
theorem instrWord_halves (v : Word n) : instrWord n (hiHalf v) (loHalf v) = v := by
  unfold instrWord hiHalf loHalf
  rw [Nat.mul_comm, Nat.div_add_mod]
  simp

theorem instrWord_toNat {opcode operand : Nat} (ho : opcode < 2 ^ (n / 2)) (hn : operand < 2 ^ (n / 2)) :
    (instrWord n opcode operand).toNat = opcode * 2 ^ (n / 2) + operand := by
  unfold instrWord
  rw [BitVec.toNat_ofNat, Nat.mod_eq_of_lt]
  calc opcode * 2 ^ (n / 2) + operand < opcode * 2 ^ (n / 2) + 2 ^ (n / 2) := by omega
    _ = (opcode + 1) * 2 ^ (n / 2) := by rw [Nat.add_mul, Nat.one_mul]
    _ ≤ 2 ^ (n / 2) * 2 ^ (n / 2) := Nat.mul_le_mul_right _ ho
    _ = 2 ^ (n / 2 + n / 2) := by rw [← Nat.pow_add]
    _ ≤ 2 ^ n := Nat.pow_le_pow_right (by omega) (by omega)

theorem hiHalf_instrWord {opcode operand : Nat} (ho : opcode < 2 ^ (n / 2)) (hn : operand < 2 ^ (n / 2)) :
    hiHalf (instrWord n opcode operand) = opcode := by
  unfold hiHalf
  rw [instrWord_toNat ho hn, Nat.add_comm, Nat.add_mul_div_right _ _ (Nat.two_pow_pos _), Nat.div_eq_of_lt hn]
  omega

theorem loHalf_instrWord {opcode operand : Nat} (hn : operand < 2 ^ (n / 2)) :
    loHalf (instrWord n opcode operand) = operand := by
  unfold loHalf instrWord
  rw [BitVec.toNat_ofNat, Nat.mod_mod_of_dvd _ (Nat.pow_dvd_pow 2 (Nat.div_le_self n 2)), Nat.add_comm,
    Nat.add_mul_mod_self_right, Nat.mod_eq_of_lt hn]

/-- What `IO` drives while `IR` holds an instruction is its operand. -/
theorem operandWord_instrWord {opcode operand : Nat} (hn : operand < 2 ^ (n / 2)) :
    operandWord (instrWord n opcode operand) = BitVec.ofNat n operand := by
  unfold operandWord
  rw [loHalf_instrWord hn]

/-- Putting into `IR` the word that is there already changes nothing. -/
theorem CoreState.holding_halves (m : CoreState n) : m.holding (hiHalf m.ir) (loHalf m.ir) = m := by
  unfold CoreState.holding
  rw [instrWord_halves]
  rfl

end Sys2Proof.Machine
end

