-- ==== Sys2Proof/Laws/Memory.lean ====
section
/-! SUPPORT. Laws/Memory.lean: a read after a write, and the canonical form of memory is kept (spec/20 R53; entry 6). -/
namespace Sys2Proof.Machine

variable {n : Nat}

@[simp] theorem memRead_nil (a : Nat) : memRead ([] : List (Nat × Word n)) a = 0 := rfl

theorem memRead_memErase_same (mem : List (Nat × Word n)) (a : Nat) : memRead (memErase mem a) a = 0 := by
  induction mem with
  | nil => rfl
  | cons e rest ih =>
    obtain ⟨b, u⟩ := e
    by_cases h : a = b
    · simp [memErase, h] at ih ⊢; exact ih
    · simp [memErase, h, memRead, ih]

theorem memRead_memErase_other (mem : List (Nat × Word n)) {a c : Nat} (hc : c ≠ a) :
    memRead (memErase mem a) c = memRead mem c := by
  induction mem with
  | nil => rfl
  | cons e rest ih =>
    obtain ⟨b, u⟩ := e
    by_cases h : a = b
    · subst h; simp [memErase, memRead, hc, ih]
    · simp [memErase, h, memRead, ih]

theorem memRead_memInsert_same (mem : List (Nat × Word n)) (a : Nat) (v : Word n)
    (h : ∀ e ∈ mem, e.1 ≠ a) : memRead (memInsert mem a v) a = v := by
  induction mem with
  | nil => simp [memInsert, memRead]
  | cons e rest ih =>
    obtain ⟨b, u⟩ := e
    have hb : a ≠ b := fun hab => h (b, u) (by simp) hab.symm
    by_cases hlt : a < b
    · simp [memInsert, hlt, memRead]
    · simp [memInsert, hlt, memRead, hb, ih (fun e he => h e (by simp [he]))]

theorem memRead_memInsert_other (mem : List (Nat × Word n)) {a c : Nat} (v : Word n) (hc : c ≠ a) :
    memRead (memInsert mem a v) c = memRead mem c := by
  induction mem with
  | nil => simp [memInsert, memRead, hc]
  | cons e rest ih =>
    obtain ⟨b, u⟩ := e
    by_cases hlt : a < b
    · simp [memInsert, hlt, memRead, hc]
    · simp [memInsert, hlt, memRead, ih]

theorem memErase_ne (mem : List (Nat × Word n)) (a : Nat) : ∀ e ∈ memErase mem a, e.1 ≠ a := by
  induction mem with
  | nil => simp [memErase]
  | cons e rest ih =>
    obtain ⟨b, u⟩ := e
    by_cases h : a = b
    · rw [show memErase ((b, u) :: rest) a = memErase rest a by simp [memErase, h]]
      exact ih
    · intro e he
      simp only [memErase, h, if_false, List.mem_cons] at he
      rcases he with rfl | he
      · exact fun hb => h hb.symm
      · exact ih e he

/-- A read of the address just written gives the value written. -/
@[simp] theorem memRead_memWrite_same (mem : List (Nat × Word n)) (a : Nat) (v : Word n) :
    memRead (memWrite mem a v) a = v := by
  unfold memWrite
  split
  · rename_i h; rw [memRead_memErase_same, h]
  · exact memRead_memInsert_same _ _ _ (memErase_ne mem a)

/-- A write leaves every other word alone. -/
theorem memRead_memWrite_other (mem : List (Nat × Word n)) {a c : Nat} (v : Word n) (hc : c ≠ a) :
    memRead (memWrite mem a v) c = memRead mem c := by
  unfold memWrite
  split
  · exact memRead_memErase_other mem hc
  · rw [memRead_memInsert_other _ v hc, memRead_memErase_other mem hc]

/-- Both cases of a read after a write. -/
theorem memRead_memWrite (mem : List (Nat × Word n)) (a c : Nat) (v : Word n) :
    memRead (memWrite mem a v) c = if c = a then v else memRead mem c := by
  split
  · rename_i h; rw [h, memRead_memWrite_same]
  · rename_i h; exact memRead_memWrite_other mem v h

theorem memWfAbove_mono {lo lo' : Nat} (h : lo' ≤ lo) {mem : List (Nat × Word n)}
    (hw : memWfAbove lo mem = true) : memWfAbove lo' mem = true := by
  cases mem with
  | nil => rfl
  | cons e rest =>
    obtain ⟨b, u⟩ := e
    simp only [memWfAbove, Bool.and_eq_true, decide_eq_true_eq] at hw ⊢
    exact ⟨⟨⟨by omega, hw.1.1.2⟩, hw.1.2⟩, hw.2⟩

theorem memWfAbove_memErase {lo a : Nat} {mem : List (Nat × Word n)} (h : memWfAbove lo mem = true) :
    memWfAbove lo (memErase mem a) = true := by
  induction mem generalizing lo with
  | nil => rfl
  | cons e rest ih =>
    obtain ⟨b, u⟩ := e
    simp only [memWfAbove, Bool.and_eq_true, decide_eq_true_eq] at h
    by_cases hab : a = b
    · simpa [memErase, hab] using hab ▸ memWfAbove_mono (by omega) (ih h.2)
    · simp only [memErase, hab, if_false, memWfAbove, Bool.and_eq_true, decide_eq_true_eq]
      exact ⟨h.1, ih h.2⟩

theorem memWfAbove_memInsert {lo a : Nat} {v : Word n} {mem : List (Nat × Word n)} (h : memWfAbove lo mem = true)
    (hlo : lo ≤ a) (ha : a < 2 ^ n) (hv : v ≠ 0) (hne : ∀ e ∈ mem, e.1 ≠ a) :
    memWfAbove lo (memInsert mem a v) = true := by
  induction mem generalizing lo with
  | nil =>
    simp only [memInsert, memWfAbove, Bool.and_eq_true, decide_eq_true_eq]
    exact ⟨⟨⟨hlo, ha⟩, hv⟩, trivial⟩
  | cons e rest ih =>
    obtain ⟨b, u⟩ := e
    simp only [memWfAbove, Bool.and_eq_true, decide_eq_true_eq] at h
    have hb : b ≠ a := hne (b, u) (by simp)
    by_cases hlt : a < b
    · simp only [memInsert, hlt, if_true, memWfAbove, Bool.and_eq_true, decide_eq_true_eq]
      exact ⟨⟨⟨hlo, ha⟩, hv⟩, ⟨⟨by omega, h.1.1.2⟩, h.1.2⟩, h.2⟩
    · simp only [memInsert, hlt, if_false, memWfAbove, Bool.and_eq_true, decide_eq_true_eq]
      exact ⟨h.1, ih h.2 (by omega) (fun e he => hne e (by simp [he]))⟩

/-- The empty memory, as at reset, is in canonical form. -/
theorem memWf_nil : memWf ([] : List (Nat × Word n)) = true := rfl

/-- A write to an address of the machine keeps the canonical form. -/
theorem memWf_memWrite {mem : List (Nat × Word n)} {a : Nat} {v : Word n} (h : memWf mem = true) (ha : a < 2 ^ n) :
    memWf (memWrite mem a v) = true := by
  unfold memWf memWrite at *
  split
  · exact memWfAbove_memErase h
  · rename_i hv
    exact memWfAbove_memInsert (memWfAbove_memErase h) (Nat.zero_le a) ha hv (memErase_ne mem a)

end Sys2Proof.Machine
end

