-- ==== Sys2Proof/Laws/PerInstr.lean ====
section
/-! SUPPORT. Laws/PerInstr.lean: one lemma per row of the opcode table. The family `RoundTrip`: a well-formed row's word, read
back in its format at the reference width, is that row; a sequencer row, which no bit pattern selects (spec/30 R85), has for
its word a well-formed control word of the two lines or three the spec gives it (spec/30 R77). -/
namespace Sys2Proof.Laws.RoundTrip

/-- The rows selected by `UPC`, not by a bit pattern. -/
def isSequencer : Instr → Bool
  | .lookup => true
  | .fetch => true
  | .skipAhead => true
  | _ => false

/-- The statement of one row. -/
def Statement (i : Instr) : Prop :=
  i.wf = true →
    if isSequencer i then
      ∃ c, (encode i).1 = .control ∧ decodeControlWord (encode i).2 = .ok c ∧
        (c.lines = [.mi, .co] ∨ c.lines = [.ii, .ro, .ce])
    else decodeAt 4 (encode i).1 (encode i).2 = .ok i

/-- Reading back a word of format `I` gives its opcode and operand. -/
theorem word_halves {opcode n : Nat} (hn : n < 2 ^ 4) :
    (opcode * 2 ^ 4 + n) / 2 ^ 4 = opcode ∧ (opcode * 2 ^ 4 + n) % 2 ^ 4 = n := by omega

theorem ai : Statement .ai := fun _ => rfl
theorem ao : Statement .ao := fun _ => rfl
theorem bi : Statement .bi := fun _ => rfl
theorem bo : Statement .bo := fun _ => rfl
theorem ii : Statement .ii := fun _ => rfl
theorem io : Statement .io := fun _ => rfl
theorem ri : Statement .ri := fun _ => rfl
theorem ro : Statement .ro := fun _ => rfl
theorem mi : Statement .mi := fun _ => rfl
theorem eo : Statement .eo := fun _ => rfl
theorem m1 : Statement .m1 := fun _ => rfl
theorem m2 : Statement .m2 := fun _ => rfl
theorem m3 : Statement .m3 := fun _ => rfl
theorem ce : Statement .ce := fun _ => rfl
theorem ci : Statement .ci := fun _ => rfl
theorem co : Statement .co := fun _ => rfl
theorem oi : Statement .oi := fun _ => rfl
theorem hltLine : Statement .hltLine := fun _ => rfl
theorem lookup : Statement .lookup := fun _ => ⟨_, rfl, rfl, .inl rfl⟩
theorem fetch : Statement .fetch := fun _ => ⟨_, rfl, rfl, .inr rfl⟩
theorem skipAhead : Statement .skipAhead := fun _ => ⟨_, rfl, rfl, .inl rfl⟩

theorem nop (n : Nat) : Statement (.nop n) := by
  intro h
  obtain ⟨hd, hm⟩ := word_halves (opcode := 0) (n := n) (by simpa [Instr.wf, Instr.wfAt] using h)
  simp only [isSequencer, encode, encodeAt, decodeAt, decodeWord, hd, hm, Bool.false_eq_true, if_false]

theorem lda (n : Nat) : Statement (.lda n) := by
  intro h
  obtain ⟨hd, hm⟩ := word_halves (opcode := 1) (n := n) (by simpa [Instr.wf, Instr.wfAt] using h)
  simp only [isSequencer, encode, encodeAt, decodeAt, decodeWord, hd, hm, Bool.false_eq_true, if_false]

theorem add (n : Nat) : Statement (.add n) := by
  intro h
  obtain ⟨hd, hm⟩ := word_halves (opcode := 2) (n := n) (by simpa [Instr.wf, Instr.wfAt] using h)
  simp only [isSequencer, encode, encodeAt, decodeAt, decodeWord, hd, hm, Bool.false_eq_true, if_false]

theorem sub (n : Nat) : Statement (.sub n) := by
  intro h
  obtain ⟨hd, hm⟩ := word_halves (opcode := 3) (n := n) (by simpa [Instr.wf, Instr.wfAt] using h)
  simp only [isSequencer, encode, encodeAt, decodeAt, decodeWord, hd, hm, Bool.false_eq_true, if_false]

theorem sta (n : Nat) : Statement (.sta n) := by
  intro h
  obtain ⟨hd, hm⟩ := word_halves (opcode := 4) (n := n) (by simpa [Instr.wf, Instr.wfAt] using h)
  simp only [isSequencer, encode, encodeAt, decodeAt, decodeWord, hd, hm, Bool.false_eq_true, if_false]

theorem ldi (n : Nat) : Statement (.ldi n) := by
  intro h
  obtain ⟨hd, hm⟩ := word_halves (opcode := 5) (n := n) (by simpa [Instr.wf, Instr.wfAt] using h)
  simp only [isSequencer, encode, encodeAt, decodeAt, decodeWord, hd, hm, Bool.false_eq_true, if_false]

theorem jmp (n : Nat) : Statement (.jmp n) := by
  intro h
  obtain ⟨hd, hm⟩ := word_halves (opcode := 6) (n := n) (by simpa [Instr.wf, Instr.wfAt] using h)
  simp only [isSequencer, encode, encodeAt, decodeAt, decodeWord, hd, hm, Bool.false_eq_true, if_false]

theorem and (n : Nat) : Statement (.and n) := by
  intro h
  obtain ⟨hd, hm⟩ := word_halves (opcode := 7) (n := n) (by simpa [Instr.wf, Instr.wfAt] using h)
  simp only [isSequencer, encode, encodeAt, decodeAt, decodeWord, hd, hm, Bool.false_eq_true, if_false]

theorem or (n : Nat) : Statement (.or n) := by
  intro h
  obtain ⟨hd, hm⟩ := word_halves (opcode := 8) (n := n) (by simpa [Instr.wf, Instr.wfAt] using h)
  simp only [isSequencer, encode, encodeAt, decodeAt, decodeWord, hd, hm, Bool.false_eq_true, if_false]

theorem xor (n : Nat) : Statement (.xor n) := by
  intro h
  obtain ⟨hd, hm⟩ := word_halves (opcode := 9) (n := n) (by simpa [Instr.wf, Instr.wfAt] using h)
  simp only [isSequencer, encode, encodeAt, decodeAt, decodeWord, hd, hm, Bool.false_eq_true, if_false]

theorem tba (n : Nat) : Statement (.tba n) := by
  intro h
  obtain ⟨hd, hm⟩ := word_halves (opcode := 10) (n := n) (by simpa [Instr.wf, Instr.wfAt] using h)
  simp only [isSequencer, encode, encodeAt, decodeAt, decodeWord, hd, hm, Bool.false_eq_true, if_false]

theorem out (n : Nat) : Statement (.out n) := by
  intro h
  obtain ⟨hd, hm⟩ := word_halves (opcode := 14) (n := n) (by simpa [Instr.wf, Instr.wfAt] using h)
  simp only [isSequencer, encode, encodeAt, decodeAt, decodeWord, hd, hm, Bool.false_eq_true, if_false]

theorem hlt (n : Nat) : Statement (.hlt n) := by
  intro h
  obtain ⟨hd, hm⟩ := word_halves (opcode := 15) (n := n) (by simpa [Instr.wf, Instr.wfAt] using h)
  simp only [isSequencer, encode, encodeAt, decodeAt, decodeWord, hd, hm, Bool.false_eq_true, if_false]

theorem undefB (n : Nat) : Statement (.undefB n) := by
  intro h
  obtain ⟨hd, hm⟩ := word_halves (opcode := 11) (n := n) (by simpa [Instr.wf, Instr.wfAt] using h)
  simp only [isSequencer, encode, encodeAt, decodeAt, decodeWord, hd, hm, Bool.false_eq_true, if_false]

theorem undefC (n : Nat) : Statement (.undefC n) := by
  intro h
  obtain ⟨hd, hm⟩ := word_halves (opcode := 12) (n := n) (by simpa [Instr.wf, Instr.wfAt] using h)
  simp only [isSequencer, encode, encodeAt, decodeAt, decodeWord, hd, hm, Bool.false_eq_true, if_false]

theorem undefD (n : Nat) : Statement (.undefD n) := by
  intro h
  obtain ⟨hd, hm⟩ := word_halves (opcode := 13) (n := n) (by simpa [Instr.wf, Instr.wfAt] using h)
  simp only [isSequencer, encode, encodeAt, decodeAt, decodeWord, hd, hm, Bool.false_eq_true, if_false]

end Sys2Proof.Laws.RoundTrip
end

