-- ==== Sys2Proof/Laws/Tick.lean ====
section
/-! SUPPORT. Laws/Tick.lean: the bands of a tick in closed form (spec/40 R97), one lemma per field, and what the sequencer and
the refusals can answer (spec/44 R186, spec/30 R74). -/
namespace Sys2Proof.Machine

variable {n : Nat}

/-- The bus after the WRITE band of a tick under the word `w`: the driver's value, the stale bus without one. -/
def CoreState.busAfter (map : List (Nat × AluOp)) (w : ControlWord) (m : CoreState n) : Word n :=
  if w.eo then alu map (modeCode w) m.a m.b
  else if w.ro then memRead m.mem m.mar.toNat
  else if w.co then m.pc
  else if w.io then operandWord m.ir
  else if w.bo then m.b
  else if w.ao then m.a
  else m.bus

section RunWord
variable (map : List (Nat × AluOp)) (w : ControlWord) (m : CoreState n)

theorem CoreState.writeBand_bus :
    ((m.controlBand w).writeBand map).bus = m.busAfter map w := by
  simp [CoreState.writeBand, CoreState.controlBand, CoreState.busAfter]

@[simp] theorem CoreState.runWord_cw : (m.runWord map w).cw = w := by
  simp [CoreState.runWord, CoreState.readBand, CoreState.midBand, CoreState.writeBand, CoreState.controlBand]

@[simp] theorem CoreState.runWord_upc : (m.runWord map w).upc = m.upc := by
  simp [CoreState.runWord, CoreState.readBand, CoreState.midBand, CoreState.writeBand, CoreState.controlBand]

@[simp] theorem CoreState.runWord_halt : (m.runWord map w).halt = (m.halt || w.hlt) := by
  simp [CoreState.runWord, CoreState.readBand, CoreState.midBand, CoreState.writeBand, CoreState.controlBand]

@[simp] theorem CoreState.runWord_bus : (m.runWord map w).bus = m.busAfter map w := by
  simp [CoreState.runWord, CoreState.readBand, CoreState.midBand, CoreState.writeBand_bus]

@[simp] theorem CoreState.runWord_mar :
    (m.runWord map w).mar = if w.mi then m.busAfter map w else m.mar := by
  simp [CoreState.runWord, CoreState.readBand, CoreState.midBand, CoreState.writeBand_bus]
  simp [CoreState.writeBand, CoreState.controlBand]

@[simp] theorem CoreState.runWord_pc :
    (m.runWord map w).pc = if w.ci then m.busAfter map w else if w.ce then m.pc + 1 else m.pc := by
  simp [CoreState.runWord, CoreState.readBand, CoreState.midBand, CoreState.writeBand_bus]
  simp [CoreState.writeBand, CoreState.controlBand]

@[simp] theorem CoreState.runWord_a :
    (m.runWord map w).a = if w.ai then m.busAfter map w else m.a := by
  simp [CoreState.runWord, CoreState.readBand, CoreState.midBand, CoreState.writeBand_bus]
  simp [CoreState.writeBand, CoreState.controlBand]

@[simp] theorem CoreState.runWord_b :
    (m.runWord map w).b = if w.bi then m.busAfter map w else m.b := by
  simp [CoreState.runWord, CoreState.readBand, CoreState.midBand, CoreState.writeBand_bus]
  simp [CoreState.writeBand, CoreState.controlBand]

@[simp] theorem CoreState.runWord_ir :
    (m.runWord map w).ir = if w.ii then m.busAfter map w else m.ir := by
  simp [CoreState.runWord, CoreState.readBand, CoreState.midBand, CoreState.writeBand_bus]
  simp [CoreState.writeBand, CoreState.controlBand]

@[simp] theorem CoreState.runWord_mem :
    (m.runWord map w).mem =
      if w.ri then memWrite m.mem (if w.mi then m.busAfter map w else m.mar).toNat (m.busAfter map w) else m.mem := by
  simp [CoreState.runWord, CoreState.readBand, CoreState.midBand, CoreState.writeBand_bus]
  simp [CoreState.writeBand, CoreState.controlBand]

@[simp] theorem CoreState.runWord_out :
    (m.runWord map w).out =
      if w.oi then m.out.map (fun o => o.emit (m.busAfter map w)) else m.out := by
  simp [CoreState.runWord, CoreState.readBand, CoreState.midBand, CoreState.writeBand_bus]
  simp [CoreState.writeBand, CoreState.controlBand]

end RunWord

/-- A tick under a ROM word goes on only if the word is well formed, and then its bands run. -/
theorem CoreState.assertWord_eq_next {map : List (Nat × AluOp)} {w : Nat} {m t : CoreState n}
    (h : m.assertWord map w = .next t) :
    ∃ c, decodeControlWord w = .ok c ∧ t = m.runWord map c := by
  unfold CoreState.assertWord at h
  split at h
  · rename_i c hc
    exact ⟨c, hc, by simpa using h.symm⟩
  · simp at h
  · simp at h

/-- A well-formed ROM word: its bands run. -/
theorem CoreState.assertWord_of_ok {map : List (Nat × AluOp)} {w : Nat} {m : CoreState n} {c : ControlWord}
    (h : decodeControlWord w = .ok c) : m.assertWord map w = .next (m.runWord map c) := by
  simp [CoreState.assertWord, h]

/-- A ROM word never makes a tick fault. -/
theorem CoreState.assertWord_ne_fault {map : List (Nat × AluOp)} {w : Nat} {m : CoreState n} {f : Fault} :
    m.assertWord map w ≠ .fault f := by
  unfold CoreState.assertWord
  split <;> simp

/-- A tick goes on only under a chosen word that is well formed. -/
theorem CoreState.follow_eq_next {map : List (Nat × AluOp)} {r : SeqResult} {m t : CoreState n}
    (h : m.follow map r = .next t) :
    ∃ w u c, r = .asserts w u ∧ decodeControlWord w = .ok c ∧ t = (m.setUpc u).runWord map c := by
  cases r with
  | pastEnd => simp [CoreState.follow] at h
  | asserts w u =>
    obtain ⟨c, hc, ht⟩ := CoreState.assertWord_eq_next h
    exact ⟨w, u, c, rfl, hc, ht⟩

theorem CoreState.follow_of_ok {map : List (Nat × AluOp)} {w u : Nat} {m : CoreState n} {c : ControlWord}
    (h : decodeControlWord w = .ok c) :
    m.follow map (.asserts w u) = .next ((m.setUpc u).runWord map c) :=
  CoreState.assertWord_of_ok h

/-- What an EXECUTE tick asserts: the skip-ahead's word for an undefined or empty opcode, else the list's word. -/
theorem executeEntry_cases (entry : Option (List Nat)) (k : Nat) :
    ((entry = none ∨ entry = some []) ∧ executeEntry entry k = .asserts lookupWord 1) ∨
    (∃ l w, entry = some l ∧ l[k]? = some w ∧
      executeEntry entry k = .asserts w (if k + 1 = l.length then 0 else k + 3)) ∨
    (∃ l, entry = some l ∧ l ≠ [] ∧ l.length ≤ k ∧ executeEntry entry k = .pastEnd) := by
  match entry with
  | none => exact .inl ⟨.inl rfl, rfl⟩
  | some [] => exact .inl ⟨.inr rfl, rfl⟩
  | some (v :: rest) =>
    refine .inr ?_
    cases h : (v :: rest)[k]? with
    | none =>
      exact .inr ⟨_, rfl, by simp, by simpa using h, by simp [executeEntry, h]⟩
    | some w => exact .inl ⟨_, w, rfl, h, by simp [executeEntry, h]⟩

/-- A well-formed control word has at most one driver, and it is the set its bits name. -/
theorem decodeControlWord_ok {w : Nat} {c : ControlWord} (h : decodeControlWord w = .ok c) :
    w < 2 ^ 18 ∧ c = ControlWord.ofNat w ∧ c.driverCount ≤ 1 := by
  unfold decodeControlWord at h
  split at h
  · simp at h
  · split at h
    · simp at h
    · simp only [Except.ok.injEq] at h
      subst h
      exact ⟨by omega, rfl, by omega⟩

/-- The two words built into the sequencer are well formed. -/
theorem decodeControlWord_lookupWord :
    decodeControlWord lookupWord = .ok { co := true, mi := true } := by rfl

theorem decodeControlWord_fetchWord :
    decodeControlWord fetchWord = .ok { ro := true, ii := true, ce := true } := by rfl

end Sys2Proof.Machine
end

