-- ==== Sys2Proof/Laws/Words.lean ====
section
/-! SUPPORT. Laws/Words.lean: what one tick does under each of the control words that the sequencer and `REF` use
(spec/30 R77, spec/45 R215), and the rows of `REF` from a state given as an update of another. -/
namespace Sys2Proof.Machine

/-- Two machine states with the same elements are the same. -/
theorem CoreState.eq_of_fields {n : Nat} {m t : CoreState n} (hbus : m.bus = t.bus) (ha : m.a = t.a) (hb : m.b = t.b)
    (hir : m.ir = t.ir) (hpc : m.pc = t.pc) (hmar : m.mar = t.mar) (hmem : m.mem = t.mem) (hupc : m.upc = t.upc)
    (hcw : m.cw = t.cw) (hhalt : m.halt = t.halt) (hout : m.out = t.out) : m = t := by
  cases m; cases t; simp_all

section Words
variable {n : Nat} (map : List (Nat × AluOp)) (m : CoreState n) (u : Nat)

/-- The word `CO|MI`. -/
theorem CoreState.follow_coMi :
    m.follow map (.asserts lookupWord u) =
      .next { m with bus := m.pc, mar := m.pc, upc := u, cw := { co := true, mi := true } } := by
  rw [CoreState.follow_of_ok (c := { co := true, mi := true }) rfl]
  refine congrArg Host.Outcome.next (CoreState.eq_of_fields ?_ ?_ ?_ ?_ ?_ ?_ ?_ ?_ ?_ ?_ ?_) <;>
    simp [CoreState.busAfter]

/-- The word `RO|II|CE`. -/
theorem CoreState.follow_roIiCe :
    m.follow map (.asserts fetchWord u) =
      .next { m with bus := memRead m.mem m.mar.toNat, ir := memRead m.mem m.mar.toNat, pc := m.pc + 1, upc := u, cw := { ro := true, ii := true, ce := true } } := by
  rw [CoreState.follow_of_ok (c := { ro := true, ii := true, ce := true }) rfl]
  refine congrArg Host.Outcome.next (CoreState.eq_of_fields ?_ ?_ ?_ ?_ ?_ ?_ ?_ ?_ ?_ ?_ ?_) <;>
    simp [CoreState.busAfter]

/-- The word `IO|MI`. -/
theorem CoreState.follow_ioMi :
    m.follow map (.asserts 0x00120 u) =
      .next { m with bus := operandWord m.ir, mar := operandWord m.ir, upc := u, cw := { io := true, mi := true } } := by
  rw [CoreState.follow_of_ok (c := { io := true, mi := true }) rfl]
  refine congrArg Host.Outcome.next (CoreState.eq_of_fields ?_ ?_ ?_ ?_ ?_ ?_ ?_ ?_ ?_ ?_ ?_) <;>
    simp [CoreState.busAfter]

/-- The word `RO|AI`. -/
theorem CoreState.follow_roAi :
    m.follow map (.asserts 0x00081 u) =
      .next { m with bus := memRead m.mem m.mar.toNat, a := memRead m.mem m.mar.toNat, upc := u, cw := { ro := true, ai := true } } := by
  rw [CoreState.follow_of_ok (c := { ro := true, ai := true }) rfl]
  refine congrArg Host.Outcome.next (CoreState.eq_of_fields ?_ ?_ ?_ ?_ ?_ ?_ ?_ ?_ ?_ ?_ ?_) <;>
    simp [CoreState.busAfter]

/-- The word `RO|BI`. -/
theorem CoreState.follow_roBi :
    m.follow map (.asserts 0x00084 u) =
      .next { m with bus := memRead m.mem m.mar.toNat, b := memRead m.mem m.mar.toNat, upc := u, cw := { ro := true, bi := true } } := by
  rw [CoreState.follow_of_ok (c := { ro := true, bi := true }) rfl]
  refine congrArg Host.Outcome.next (CoreState.eq_of_fields ?_ ?_ ?_ ?_ ?_ ?_ ?_ ?_ ?_ ?_ ?_) <;>
    simp [CoreState.busAfter]

/-- The word `AO|RI`. -/
theorem CoreState.follow_aoRi :
    m.follow map (.asserts 0x00042 u) =
      .next { m with bus := m.a, mem := memWrite m.mem m.mar.toNat m.a, upc := u, cw := { ao := true, ri := true } } := by
  rw [CoreState.follow_of_ok (c := { ao := true, ri := true }) rfl]
  refine congrArg Host.Outcome.next (CoreState.eq_of_fields ?_ ?_ ?_ ?_ ?_ ?_ ?_ ?_ ?_ ?_ ?_) <;>
    simp [CoreState.busAfter]

/-- The word `EO|M1|M2|AI`. -/
theorem CoreState.follow_addAi :
    m.follow map (.asserts 0x00E01 u) =
      .next { m with bus := alu map 3 m.a m.b, a := alu map 3 m.a m.b, upc := u, cw := { eo := true, m1 := true, m2 := true, ai := true } } := by
  rw [CoreState.follow_of_ok (c := { eo := true, m1 := true, m2 := true, ai := true }) rfl]
  refine congrArg Host.Outcome.next (CoreState.eq_of_fields ?_ ?_ ?_ ?_ ?_ ?_ ?_ ?_ ?_ ?_ ?_) <;>
    simp [CoreState.busAfter, modeCode]

/-- The word `EO|M3|AI`. -/
theorem CoreState.follow_subAi :
    m.follow map (.asserts 0x01201 u) =
      .next { m with bus := alu map 4 m.a m.b, a := alu map 4 m.a m.b, upc := u, cw := { eo := true, m3 := true, ai := true } } := by
  rw [CoreState.follow_of_ok (c := { eo := true, m3 := true, ai := true }) rfl]
  refine congrArg Host.Outcome.next (CoreState.eq_of_fields ?_ ?_ ?_ ?_ ?_ ?_ ?_ ?_ ?_ ?_ ?_) <;>
    simp [CoreState.busAfter, modeCode]

/-- The word `EO|AI`. -/
theorem CoreState.follow_andAi :
    m.follow map (.asserts 0x00201 u) =
      .next { m with bus := alu map 0 m.a m.b, a := alu map 0 m.a m.b, upc := u, cw := { eo := true, ai := true } } := by
  rw [CoreState.follow_of_ok (c := { eo := true, ai := true }) rfl]
  refine congrArg Host.Outcome.next (CoreState.eq_of_fields ?_ ?_ ?_ ?_ ?_ ?_ ?_ ?_ ?_ ?_ ?_) <;>
    simp [CoreState.busAfter, modeCode]

/-- The word `EO|M1|AI`. -/
theorem CoreState.follow_orAi :
    m.follow map (.asserts 0x00601 u) =
      .next { m with bus := alu map 1 m.a m.b, a := alu map 1 m.a m.b, upc := u, cw := { eo := true, m1 := true, ai := true } } := by
  rw [CoreState.follow_of_ok (c := { eo := true, m1 := true, ai := true }) rfl]
  refine congrArg Host.Outcome.next (CoreState.eq_of_fields ?_ ?_ ?_ ?_ ?_ ?_ ?_ ?_ ?_ ?_ ?_) <;>
    simp [CoreState.busAfter, modeCode]

/-- The word `EO|M2|AI`. -/
theorem CoreState.follow_xorAi :
    m.follow map (.asserts 0x00A01 u) =
      .next { m with bus := alu map 2 m.a m.b, a := alu map 2 m.a m.b, upc := u, cw := { eo := true, m2 := true, ai := true } } := by
  rw [CoreState.follow_of_ok (c := { eo := true, m2 := true, ai := true }) rfl]
  refine congrArg Host.Outcome.next (CoreState.eq_of_fields ?_ ?_ ?_ ?_ ?_ ?_ ?_ ?_ ?_ ?_ ?_) <;>
    simp [CoreState.busAfter, modeCode]

/-- The word `IO|AI`. -/
theorem CoreState.follow_ioAi :
    m.follow map (.asserts 0x00021 u) =
      .next { m with bus := operandWord m.ir, a := operandWord m.ir, upc := u, cw := { io := true, ai := true } } := by
  rw [CoreState.follow_of_ok (c := { io := true, ai := true }) rfl]
  refine congrArg Host.Outcome.next (CoreState.eq_of_fields ?_ ?_ ?_ ?_ ?_ ?_ ?_ ?_ ?_ ?_ ?_) <;>
    simp [CoreState.busAfter]

/-- The word `IO|CI`. -/
theorem CoreState.follow_ioCi :
    m.follow map (.asserts 0x04020 u) =
      .next { m with bus := operandWord m.ir, pc := operandWord m.ir, upc := u, cw := { io := true, ci := true } } := by
  rw [CoreState.follow_of_ok (c := { io := true, ci := true }) rfl]
  refine congrArg Host.Outcome.next (CoreState.eq_of_fields ?_ ?_ ?_ ?_ ?_ ?_ ?_ ?_ ?_ ?_ ?_) <;>
    simp [CoreState.busAfter]

/-- The word `BO|AI`. -/
theorem CoreState.follow_boAi :
    m.follow map (.asserts 0x00009 u) =
      .next { m with bus := m.b, a := m.b, upc := u, cw := { bo := true, ai := true } } := by
  rw [CoreState.follow_of_ok (c := { bo := true, ai := true }) rfl]
  refine congrArg Host.Outcome.next (CoreState.eq_of_fields ?_ ?_ ?_ ?_ ?_ ?_ ?_ ?_ ?_ ?_ ?_) <;>
    simp [CoreState.busAfter]

/-- The word `AO|OI`. -/
theorem CoreState.follow_aoOi :
    m.follow map (.asserts 0x10002 u) =
      .next { m with bus := m.a, out := m.out.map (fun o => o.emit m.a), upc := u, cw := { ao := true, oi := true } } := by
  rw [CoreState.follow_of_ok (c := { ao := true, oi := true }) rfl]
  refine congrArg Host.Outcome.next (CoreState.eq_of_fields ?_ ?_ ?_ ?_ ?_ ?_ ?_ ?_ ?_ ?_ ?_) <;>
    simp [CoreState.busAfter]

/-- The word `HLT`. -/
theorem CoreState.follow_hlt :
    m.follow map (.asserts 0x20000 u) =
      .next { m with halt := true, upc := u, cw := { hlt := true } } := by
  rw [CoreState.follow_of_ok (c := { hlt := true }) rfl]
  refine congrArg Host.Outcome.next (CoreState.eq_of_fields ?_ ?_ ?_ ?_ ?_ ?_ ?_ ?_ ?_ ?_ ?_) <;>
    simp [CoreState.busAfter]

end Words

/-- A machine's outcome lifted from an updated state is the one lifted from the state before the update. -/
theorem State.withOutcome_setCore (s : State) (m : CoreState s.width)
    (o : Host.Outcome (CoreState s.width) Fault Refusal) : (s.setCore m).withOutcome o = s.withOutcome o := by
  cases o <;> rfl

/-- One EXECUTE tick of a row of `REF` from an updated state. -/
theorem executeRow_setCore (opcode operand : Nat) (entry : Option (List Nat)) (s : State) (m : CoreState s.width) :
    executeRow opcode operand entry (s.setCore m) =
      s.withOutcome ((m.holding opcode operand).follow s.cfg.aluModeMap (executeEntry entry (m.upc - 2))) :=
  State.withOutcome_setCore s m _

end Sys2Proof.Machine
end

