-- ==== Sys2Proof/Laws/Step.lean ====
section
/-! SUPPORT. Laws/Step.lean: runs of ticks, put together and taken apart. -/
namespace Sys2Proof.Machine

/-- A tick that goes on is the first of a run. -/
theorem ticks_succ_of_next {s t : State} {k : Nat} (h : step s = .next t) : ticks (k + 1) s = ticks k t := by
  simp [ticks, h]

/-- A run that goes on, continued. -/
theorem ticks_add_of_next {s t : State} {j k : Nat} (h : ticks j s = .next t) : ticks (j + k) s = ticks k t := by
  induction j generalizing s with
  | zero => cases h; rw [Nat.zero_add]
  | succ j ih =>
    rw [Nat.add_right_comm]
    cases hs : step s with
    | next u =>
      rw [ticks_succ_of_next hs] at h ⊢
      exact ih h
    | fault f => simp [ticks, hs] at h
    | refused r => simp [ticks, hs] at h

/-- Two updates of one state are the same state only if the tuples are. -/
theorem State.setCore_inj {s : State} {m m' : CoreState s.width} (h : s.setCore m = s.setCore m') : m = m' := by
  cases s
  simpa [State.setCore] using h

end Sys2Proof.Machine
end

