-- ==== Sys2Proof/Tests/Slice0.lean ====
section
/-! SUPPORT. Tests/Slice0.lean: the model's own tests. Expected results are the spec's: the vectors of spec/95 (the vector's
name stands in the comment) and the encoding tables of spec/30 and spec/45. The last part holds, for every obligation with
hypotheses, a concrete state and operands that meet them. -/
namespace Sys2Proof.Tests
open Sys2Proof Sys2Proof.Machine

/-! ## Small machines -/

/-- The machine's own state with everything zero (spec/95, notation). -/
def zero : CoreState 8 := CoreState.blank 8 true

/-- A machine of the reference configuration with this state of its own. -/
def at8 (m : CoreState 8) : State := { width := 8, cfg := State.reset.cfg, core := m, clock := State.reset.clock }

/-- The same with another table. -/
def tabled (t : List (Nat × List Nat)) (m : CoreState 8) : State :=
  { width := 8, cfg := { State.reset.cfg with microcode := t }, core := m, clock := State.reset.clock }

/-- One tick under a word given directly (spec/95, one-tick vectors). -/
def under (w : Nat) (m : CoreState 8) : CoreState 8 := m.runWord refAluModeMap (ControlWord.ofNat w)

/-- The natural values of the registers a vector shows. -/
def regs (m : CoreState 8) : List Nat := [m.a.toNat, m.b.toNat, m.ir.toNat, m.pc.toNat, m.mar.toNat, m.bus.toNat]

/-- The trace of the output register. -/
def trace (m : CoreState 8) : List Nat :=
  match m.out with
  | some o => o.trace.map BitVec.toNat
  | none => []

/-- Registers and pointer of an outcome; nothing of a stop. -/
def seen (o : Host.Outcome State Fault Refusal) : Option (List Nat) :=
  match o with
  | .next s => some [s.core.a.toNat, s.core.b.toNat, s.core.ir.toNat, s.core.pc.toNat, s.core.mar.toNat,
      s.core.bus.toNat, s.core.upc]
  | .fault _ => none
  | .refused _ => none

/-- A list of a memory's words from address 0. -/
def words (mem : List (Nat × Word 8)) (k : Nat) : List Nat := (List.range k).map (fun a => (memRead mem a).toNat)

/-! ## Well-formedness: an operand that no half can hold is refused (spec/30 R83) -/

theorem test_wf_operand_fits : (Instr.lda 15).wf = true := by decide
theorem test_wf_refuses_nop : (Instr.nop 16).wf = false := by decide
theorem test_wf_refuses_lda : (Instr.lda 16).wf = false := by decide
theorem test_wf_refuses_add : (Instr.add 16).wf = false := by decide
theorem test_wf_refuses_sub : (Instr.sub 16).wf = false := by decide
theorem test_wf_refuses_sta : (Instr.sta 16).wf = false := by decide
theorem test_wf_refuses_ldi : (Instr.ldi 16).wf = false := by decide
theorem test_wf_refuses_jmp : (Instr.jmp 16).wf = false := by decide
theorem test_wf_refuses_and : (Instr.and 16).wf = false := by decide
theorem test_wf_refuses_or : (Instr.or 16).wf = false := by decide
theorem test_wf_refuses_xor : (Instr.xor 16).wf = false := by decide
theorem test_wf_refuses_tba : (Instr.tba 16).wf = false := by decide
theorem test_wf_refuses_out : (Instr.out 16).wf = false := by decide
theorem test_wf_refuses_hlt : (Instr.hlt 16).wf = false := by decide
theorem test_wf_refuses_undefB : (Instr.undefB 16).wf = false := by decide
theorem test_wf_refuses_undefC : (Instr.undefC 16).wf = false := by decide
theorem test_wf_refuses_undefD : (Instr.undefD 16).wf = false := by decide

/-! ## Decoding: words written out from spec/30 R70, R73 and spec/45 R215 -/

theorem test_decode_nop : decodeWord 4 0b00000000 = .ok (.nop 0) := by rfl
theorem test_decode_lda : decodeWord 4 0b00011110 = .ok (.lda 14) := by rfl
theorem test_decode_add : decodeWord 4 0b00101111 = .ok (.add 15) := by rfl
theorem test_decode_sub : decodeWord 4 0b00111111 = .ok (.sub 15) := by rfl
theorem test_decode_sta : decodeWord 4 0b01001110 = .ok (.sta 14) := by rfl
theorem test_decode_ldi : decodeWord 4 0b01010011 = .ok (.ldi 3) := by rfl
theorem test_decode_jmp : decodeWord 4 0b01100011 = .ok (.jmp 3) := by rfl
theorem test_decode_and : decodeWord 4 0b01111111 = .ok (.and 15) := by rfl
theorem test_decode_or : decodeWord 4 0b10001111 = .ok (.or 15) := by rfl
theorem test_decode_xor : decodeWord 4 0b10011111 = .ok (.xor 15) := by rfl
theorem test_decode_tba : decodeWord 4 0b10100000 = .ok (.tba 0) := by rfl
theorem test_decode_undefB : decodeWord 4 0b10110111 = .ok (.undefB 7) := by rfl
theorem test_decode_undefC : decodeWord 4 0b11000001 = .ok (.undefC 1) := by rfl
theorem test_decode_undefD : decodeWord 4 0b11011000 = .ok (.undefD 8) := by rfl
theorem test_decode_out : decodeWord 4 0b11100000 = .ok (.out 0) := by rfl
theorem test_decode_hlt : decodeWord 4 0b11111111 = .ok (.hlt 15) := by rfl
theorem test_decode_no_row : decodeWord 4 0b100000000 = .error .opcodeWithoutRow := by rfl
theorem test_decode_bytes : decodeBytes [0b01010011, 0b11110000] = .ok (.ldi 3, [0b11110000]) := by rfl
theorem test_decode_no_bytes : decodeBytes [] = .error .noBytes := by rfl

theorem test_decode_ai : decodeLine 0b000000000000000001 = .ok .ai := by rfl
theorem test_decode_ao : decodeLine 0b000000000000000010 = .ok .ao := by rfl
theorem test_decode_bi : decodeLine 0b000000000000000100 = .ok .bi := by rfl
theorem test_decode_bo : decodeLine 0b000000000000001000 = .ok .bo := by rfl
theorem test_decode_ii : decodeLine 0b000000000000010000 = .ok .ii := by rfl
theorem test_decode_io : decodeLine 0b000000000000100000 = .ok .io := by rfl
theorem test_decode_ri : decodeLine 0b000000000001000000 = .ok .ri := by rfl
theorem test_decode_ro : decodeLine 0b000000000010000000 = .ok .ro := by rfl
theorem test_decode_mi : decodeLine 0b000000000100000000 = .ok .mi := by rfl
theorem test_decode_eo : decodeLine 0b000000001000000000 = .ok .eo := by rfl
theorem test_decode_m1 : decodeLine 0b000000010000000000 = .ok .m1 := by rfl
theorem test_decode_m2 : decodeLine 0b000000100000000000 = .ok .m2 := by rfl
theorem test_decode_m3 : decodeLine 0b000001000000000000 = .ok .m3 := by rfl
theorem test_decode_ce : decodeLine 0b000010000000000000 = .ok .ce := by rfl
theorem test_decode_ci : decodeLine 0b000100000000000000 = .ok .ci := by rfl
theorem test_decode_co : decodeLine 0b001000000000000000 = .ok .co := by rfl
theorem test_decode_oi : decodeLine 0b010000000000000000 = .ok .oi := by rfl
theorem test_decode_hltLine : decodeLine 0b100000000000000000 = .ok .hltLine := by rfl
/-- A sequencer row is no bit pattern of its own: its word names the lines it asserts (spec/30 R77, R85). -/
theorem test_lookup_lines : (ControlWord.ofNat lookupWord).lines = [.mi, .co] := by decide
theorem test_fetch_lines : (ControlWord.ofNat fetchWord).lines = [.ii, .ro, .ce] := by decide
theorem test_decode_two_lines : decodeLine 0x08100 = .error .notOneLine := by rfl
/-- K4 and K5. -/
theorem test_two_drivers : decodeControlWord 0x0000A = .error .twoDrivers := by rfl
theorem test_bit_18 : decodeControlWord 0x40000 = .error .lineAbove17 := by rfl

theorem test_table_word_line : decodeTableWord 24 0x00400 = some .m1 := by rfl
theorem test_table_word_row : decodeTableWord 8 0xE0 = some (.out 0) := by rfl

/-! ## Control lines, one tick each: the action a row of the table names (spec/95, 2.1 to 2.4) -/

/-- K2: the stale bus is captured. -/
theorem test_ai : regs (under 0x00001 { zero with bus := 0x33 }) = [0x33, 0, 0, 0, 0, 0x33] := by decide
/-- G1. -/
theorem test_ao_bi : regs (under 0x00006 { zero with a := 0x5A }) = [0x5A, 0x5A, 0, 0, 0, 0x5A] := by decide
/-- G2. -/
theorem test_bo_ai : regs (under 0x00009 { zero with b := 0xC3 }) = [0xC3, 0xC3, 0, 0, 0, 0xC3] := by decide
/-- G3. -/
theorem test_ao_ai : regs (under 0x00003 { zero with a := 0x77, bus := 0x12 }) = [0x77, 0, 0, 0, 0, 0x77] := by decide
/-- G4. -/
theorem test_io_mi : regs (under 0x00120 { zero with ir := 0x2F, bus := 0x99 }) = [0, 0, 0x2F, 0, 0x0F, 0x0F] := by decide
/-- G5. -/
theorem test_ii_io : regs (under 0x00030 { zero with ir := 0xAB }) = [0, 0, 0x0B, 0, 0, 0x0B] := by decide
/-- G6. -/
theorem test_io_ci :
    regs (under 0x04020 { zero with ir := 0x63, pc := 0x01, bus := 0x63 }) = [0, 0, 0x63, 0x03, 0, 0x03] := by decide
/-- G7. -/
theorem test_ce_wraps : (under 0x02000 { zero with pc := 0xFF }).pc = 0x00 := by decide
/-- G8. -/
theorem test_co_ci_ce : regs (under 0x0E000 { zero with pc := 0x10 }) = [0, 0, 0, 0x10, 0, 0x10] := by decide
/-- G9. -/
theorem test_ao_ci_ce : regs (under 0x06002 { zero with pc := 0x10, a := 0x80 }) = [0x80, 0, 0, 0x80, 0, 0x80] := by decide
/-- G10. -/
theorem test_co_mi_ce : regs (under 0x0A100 { zero with pc := 0x10 }) = [0, 0, 0, 0x11, 0x10, 0x10] := by decide
/-- G11. -/
theorem test_oi : trace (under 0x10000 { zero with a := 0x2A, bus := 0x11 }) = [0x11] := by decide
/-- G13: no output register is fitted. -/
theorem test_oi_absent :
    under 0x10002 { zero with a := 0x2A, out := none } =
      { zero with a := 0x2A, out := none, bus := 0x2A, cw := { ao := true, oi := true } } := by decide
/-- G14: the second tick takes the kept bus. -/
theorem test_oi_kept_bus : trace (under 0x10000 (under 0x10002 { zero with a := 0x2A })) = [0x2A, 0x2A] := by decide
/-- K1: no driver. -/
theorem test_empty_word :
    regs (under 0 { zero with a := 1, b := 2, ir := 0x12, pc := 9, mar := 4, bus := 0x55 }) = [1, 2, 0x12, 9, 4, 0x55] := by
  decide
/-- K3: mode lines without `EO`. -/
theorem test_mode_lines_alone : regs (under 0x00C00 { zero with a := 3, b := 5, bus := 0x44 }) = [3, 5, 0, 0, 0, 0x44] := by
  decide
/-- K6: the halting tick completes. -/
theorem test_halting_tick :
    under 0x30002 { zero with a := 0x2A } =
      { zero with
        a := 0x2A, bus := 0x2A, halt := true
        out := some { value := 0x2A, trace := [0x2A] }
        cw := { ao := true, oi := true, hlt := true } } := by decide
/-- M2. -/
theorem test_ro_ai :
    regs (under 0x00081 { zero with mar := 0x07, mem := [(0x07, 0x2F)] }) = [0x2F, 0, 0, 0, 0x07, 0x2F] := by decide
/-- M3. -/
theorem test_ao_ri : (under 0x00042 { zero with mar := 0x0E, a := 0xFE }).mem = [(0x0E, 0xFE)] := by decide
/-- M4: the read is at the old address. -/
theorem test_ro_mi :
    regs (under 0x00180 { zero with mar := 2, mem := [(2, 0x09), (9, 0x77)] }) = [0, 0, 0, 0, 0x09, 0x09] := by decide
/-- M5: the write is at the new address. -/
theorem test_ao_mi_ri : (under 0x00142 { zero with a := 0x0C, mar := 0x01 }).mem = [(0x0C, 0x0C)] := by decide
/-- M6. -/
theorem test_ro_ri : (under 0x000C0 { zero with mar := 5, mem := [(5, 0x42)] }).mem = [(5, 0x42)] := by decide
/-- M7. -/
theorem test_eo_m1_mi : (under 0x00700 { zero with a := 0xF0, b := 0x0F, mar := 3 }).mar = 0xFF := by decide
/-- M8. -/
theorem test_ro_bi_top : (under 0x00084 { zero with mar := 0xFF, mem := [(0xFF, 0x99)] }).b = 0x99 := by decide
/-- M9. -/
theorem test_ro_unwritten : (under 0x00081 { zero with mar := 0x30, a := 7 }).a = 0x00 := by decide
/-- L1. -/
theorem test_eo_sub : regs (under 0x01201 { zero with a := 3, b := 5 }) = [0xFE, 5, 0, 0, 0, 0xFE] := by decide
/-- L2. -/
theorem test_eo_add_both : regs (under 0x00E05 { zero with a := 3, b := 5 }) = [8, 8, 0, 0, 0, 8] := by decide
/-- L5. -/
theorem test_eo_then_ai : (under 0x00001 (under 0x00E00 { zero with a := 0xCC, b := 0xAA, bus := 0x44 })).a = 0x76 := by decide

/-! ### The rows themselves: with the flag in `CW` the component acts (spec/40 R95) -/

theorem test_exec_ii : seen (exec .ii (at8 { zero with bus := 0xA5, cw := { ii := true } })) =
    some [0, 0, 0xA5, 0, 0, 0xA5, 0] := by decide
theorem test_exec_ii_clear : seen (exec .ii (at8 { zero with bus := 0xA5 })) = some [0, 0, 0, 0, 0, 0xA5, 0] := by decide
theorem test_exec_m2 : seen (exec .m2 (at8 { zero with a := 3, cw := { m2 := true } })) =
    some [3, 0, 0, 0, 0, 0, 0] := by decide

/-! ## The ALU: the row `0xCC, 0xAA` and VC7's two literals (spec/95, 2.4 and V2) -/

theorem test_alu_codes :
    (List.range 8).map (fun c => (alu (n := 8) refAluModeMap c 0xCC 0xAA).toNat) =
      [0x88, 0xEE, 0x66, 0x76, 0x22, 0x22, 0x22, 0x22] := by decide
theorem test_alu_add_wraps : alu (n := 8) refAluModeMap 3 0xFF 0x01 = 0x00 := by decide
theorem test_alu_sub_wraps : alu (n := 8) refAluModeMap 4 0x00 0x01 = 0xFF := by decide
/-- The carry chain of `0x1C + 0x0E`. -/
theorem test_carries :
    (List.range 9).map (fun j => (ripple (n := 8) 0x1C 0x0E false j).1) =
      [false, false, false, true, true, true, false, false, false] := by decide
/-- `0x05 - 0x03`: final carry 1, dropped. -/
theorem test_final_carry : finalCarry (n := 8) 0x05 (~~~0x03) true = true := by decide

/-! ## The sequencer (spec/95, 2.5) -/

/-- Q1. -/
theorem test_lookup : seq 0 (0x63 : Word 8) refMicrocode = .asserts 0x08100 1 := by decide
/-- Q2. -/
theorem test_fetch : seq 1 (0x63 : Word 8) refMicrocode = .asserts 0x02090 2 := by decide
/-- Q4. -/
theorem test_seq_last : seq 3 (0x1E : Word 8) refMicrocode = .asserts 0x00081 0 := by decide
/-- Q6. -/
theorem test_seq_middle : seq 3 (0x2F : Word 8) refMicrocode = .asserts 0x00084 4 := by decide
/-- Q9. -/
theorem test_seq_undefined : seq 2 (0xB7 : Word 8) refMicrocode = .asserts 0x08100 1 := by decide
/-- Q12. -/
theorem test_seq_past_end : seq 3 (0x5A : Word 8) refMicrocode = .pastEnd := by decide
theorem test_step_past_end : step (at8 { zero with upc := 3, ir := 0x5A }) = .fault .microIndexPastEnd := by rfl
/-- Q13. -/
theorem test_seq_empty : seq 7 (0x00 : Word 8) refMicrocode = .asserts 0x08100 1 := by decide
/-- K4 and K5 through the step. -/
theorem test_step_conflict : step (tabled [(0, [0x0000A])] { zero with upc := 2 }) = .refused .busConflict := by rfl
theorem test_step_unnamed : step (tabled [(0, [0x40000])] { zero with upc := 2 }) = .refused .unnamedLine := by rfl
/-- V6: a halted machine is not even sequenced. -/
theorem test_halted : step (at8 { zero with halt := true, upc := 1, pc := 0x10 }) =
    .next (at8 { zero with halt := true, upc := 1, pc := 0x10 }) := by rfl

/-! ## The rows of `REF`: single ticks of programs P1 to P5 (spec/95, part 3) -/

/-- P2, skip-ahead over the word 0 at address 3: the pointer is 1 and the bus carries `PC`. -/
theorem test_nop : seen (exec (.nop 0) (at8 { zero with upc := 2, pc := 4, mar := 3 })) =
    some [0, 0, 0, 4, 4, 4, 1] := by decide
/-- P1, ticks 3 and 4. -/
theorem test_lda_first : seen (exec (.lda 14) (at8 { zero with upc := 2, pc := 1, ir := 0x1E, bus := 0x1E })) =
    some [0, 0, 0x1E, 1, 0x0E, 0x0E, 3] := by decide
theorem test_lda_last : seen (exec (.lda 14)
    (at8 { zero with upc := 3, pc := 1, ir := 0x1E, mar := 0x0E, bus := 0x0E, mem := [(14, 0x1C)] })) =
    some [0x1C, 0, 0x1E, 1, 0x0E, 0x1C, 0] := by decide
/-- P1, ticks 8 and 9. -/
theorem test_add_second : seen (exec (.add 15)
    (at8 { zero with upc := 3, pc := 2, ir := 0x2F, mar := 0x0F, a := 0x1C, bus := 0x0F, mem := [(15, 0x0E)] })) =
    some [0x1C, 0x0E, 0x2F, 2, 0x0F, 0x0E, 4] := by decide
theorem test_add_last : seen (exec (.add 15)
    (at8 { zero with upc := 4, pc := 2, ir := 0x2F, mar := 0x0F, a := 0x1C, b := 0x0E, bus := 0x0E })) =
    some [0x2A, 0x0E, 0x2F, 2, 0x0F, 0x2A, 0] := by decide
/-- `0x03 - 0x05` (spec/95, 2.4). -/
theorem test_sub_last : seen (exec (.sub 15) (at8 { zero with upc := 4, ir := 0x3F, mar := 0x0F, a := 3, b := 5 })) =
    some [0xFE, 5, 0x3F, 0, 0x0F, 0xFE, 0] := by decide
/-- The store of M3. -/
theorem test_sta_last : (match exec (.sta 14) (at8 { zero with upc := 3, ir := 0x4E, mar := 0x0E, a := 0xFE }) with
    | .next s => s.core.mem.map (fun e => (e.1, e.2.toNat))
    | .fault _ => []
    | .refused _ => []) = [(0x0E, 0xFE)] := by decide
/-- P4, tick 13. -/
theorem test_ldi : seen (exec (.ldi 10) (at8 { zero with upc := 2, ir := 0x5A, pc := 4, mar := 3, a := 0x5A, bus := 0x5A })) =
    some [0x0A, 0, 0x5A, 4, 3, 0x0A, 0] := by decide
/-- G6 as the `JMP` micro-step. -/
theorem test_jmp : seen (exec (.jmp 3) (at8 { zero with upc := 2, ir := 0x63, pc := 1, bus := 0x63 })) =
    some [0, 0, 0x63, 3, 0, 3, 0] := by decide
/-- P5, ticks 9, 21, 33. -/
theorem test_and_last : seen (exec (.and 15)
    (at8 { zero with upc := 4, ir := 0x7F, pc := 2, mar := 15, a := 0xCC, b := 0xAA })) =
    some [0x88, 0xAA, 0x7F, 2, 15, 0x88, 0] := by decide
theorem test_or_last : seen (exec (.or 15)
    (at8 { zero with upc := 4, ir := 0x8F, pc := 5, mar := 15, a := 0xCC, b := 0xAA })) =
    some [0xEE, 0xAA, 0x8F, 5, 15, 0xEE, 0] := by decide
theorem test_xor_last : seen (exec (.xor 15)
    (at8 { zero with upc := 4, ir := 0x9F, pc := 8, mar := 15, a := 0xCC, b := 0xAA })) =
    some [0x66, 0xAA, 0x9F, 8, 15, 0x66, 0] := by decide
/-- P5, tick 39. -/
theorem test_tba : seen (exec (.tba 0) (at8 { zero with upc := 2, ir := 0xA0, pc := 10, mar := 9, a := 0x66, b := 0xAA })) =
    some [0xAA, 0xAA, 0xA0, 10, 9, 0xAA, 0] := by decide
/-- P1, tick 12. -/
theorem test_out : (match exec (.out 0) (at8 { zero with upc := 2, ir := 0xE0, a := 0x2A }) with
    | .next s => s.core.out.map (fun o => (o.value.toNat, o.trace.map BitVec.toNat))
    | .fault _ => none
    | .refused _ => none) = some (0x2A, [0x2A]) := by decide
/-- Q10: the operand of `HLT` is ignored. -/
theorem test_hlt : (match exec (.hlt 15) (at8 { zero with upc := 2, ir := 0xFF }) with
    | .next s => some (s.core.halt, s.core.upc)
    | .fault _ => none
    | .refused _ => none) = some (true, 0) := by decide
/-- P2, the undefined word `0xB7` at address 4. -/
theorem test_undefB : seen (exec (.undefB 7) (at8 { zero with upc := 2, pc := 5, mar := 4, ir := 0xB7, bus := 0xB7 })) =
    some [0, 0, 0xB7, 5, 5, 5, 1] := by decide

/-! ## Images (spec/95, 2.6) -/

/-- I4. -/
theorem test_image_masks :
    (loadImage 8 [.word (-1), .word 256, .word 0x1FF, .word (-256)]).map (fun mem => words mem 4) =
      some [0xFF, 0x00, 0xFF, 0x00] := by decide
/-- I5. -/
theorem test_image_overwrites :
    (loadImage 8 [.origin 3, .word 7, .origin 3, .word 9]).map (fun mem => words mem 4) = some [0, 0, 0, 9] := by decide
/-- I6 and I7. -/
theorem test_image_top : loadImage 8 [.origin 255, .word 1] = some [(255, 1)] := by decide
theorem test_image_past_top : loadImage 8 [.origin 255, .word 1, .word 2] = none := by decide
/-- I9. -/
theorem test_image_origin_past_top : loadImage 8 [.word 5, .origin 256] = some [(0, 5)] := by decide

/-! ## Construction (spec/95, V8) -/

theorem test_width_mismatch :
    construct { referenceParams with components := { ComponentWidths.all 8 with alu := 4 } } = .error .widthMismatch := by rfl
theorem test_width_odd : construct { referenceParams with width := 7 } = .error .badWidth := by rfl
theorem test_width_zero : construct { referenceParams with width := 0 } = .error .badWidth := by rfl
theorem test_width_negative : construct { referenceParams with width := -2 } = .error .badWidth := by rfl
theorem test_width_two :
    (match construct { referenceParams with width := 2, components := ComponentWidths.all 2 } with
      | .ok s => s.width
      | .error _ => 0) = 2 := by decide

/-! ## Boolean vectors (spec/95, V1) -/

theorem test_from_int_five : fromInt 5 8 = [false, false, false, false, false, true, false, true] := by decide
theorem test_from_int_165 : fromInt 165 8 = [true, false, true, false, false, true, false, true] := by decide
theorem test_from_int_negative : toInt (fromInt (-1) 8) = 255 := by decide
theorem test_from_int_wraps : toInt (fromInt 261 8) = 5 := by decide

/-! ## Placing an instruction for the next step -/

/-- `LDA 14`, placed and looked up and fetched from reset: the next step is its first EXECUTE tick. -/
theorem test_place_instruction :
    step (State.reset.withFetchWord 8 0x1E) = exec (.lda 14) (State.reset.withFetchWord 8 0x1E) := by rfl
/-- The line `HLT`, placed as a micro-step: the next step halts. -/
theorem test_place_line :
    (match step (State.reset.withFetchWord 24 0x20000) with
      | .next s => s.core.halt
      | .fault _ => false
      | .refused _ => false) = true := by decide

/-! ## Witnesses: the hypotheses of each obligation hold together somewhere -/

/-- A machine with this word at address 5, about to look it up. -/
def about (w : Word 8) : State := at8 { zero with pc := 5, a := 9, b := 7, mem := [(5, w)] }

theorem test_witness_OutputLine :
    let s := at8 { zero with cw := { oi := true } }
    let t := at8 { zero with cw := { oi := true }, out := none }
    (s.core.cw.oi = true ∧ s.core.out = some { value := 0, trace := [] }) ∧
    (t.core.cw.oi = true ∧ t.core.out = none) ∧ (at8 zero).core.cw.oi = false := by decide

theorem test_witness_HaltLine :
    (at8 { zero with cw := { hlt := true } }).core.cw.hlt = true ∧ (at8 zero).core.cw.hlt = false := by decide

theorem test_witness_EmptyAndUndefinedRowsSkipAhead :
    let rows := [(Instr.nop 15, 0), (Instr.undefB 15, 11), (Instr.undefC 15, 12), (Instr.undefD 15, 13)]
    (Instr.nop 15, 0) ∈ rows ∧ (Instr.undefB 15, 11) ∈ rows ∧ (Instr.undefC 15, 12) ∈ rows ∧
      (Instr.undefD 15, 13) ∈ rows := by decide

/-- For `LdaExecutes`, `StaExecutes` and `OneTickRowsExecute`: the smallest and the largest operand. -/
theorem test_witness_LdaExecutes_StaExecutes_OneTickRowsExecute :
    let s := at8 { zero with upc := 2 }
    0 < 2 ^ (s.width / 2) ∧ 15 < 2 ^ (s.width / 2) ∧ s.core.upc = 2 := by decide

theorem test_witness_AluRowsExecute :
    let s := at8 { zero with upc := 2, a := 9, mem := [(15, 7)] }
    15 < 2 ^ (s.width / 2) ∧ s.core.upc = 2 ∧ s.cfg.aluModeMap = refAluModeMap ∧
    memRead s.core.mem 15 = 7 := by decide

theorem test_witness_RowFaultsPastItsList :
    2 + 1 ≤ (at8 { zero with upc := 3 }).core.upc ∧ 2 + 2 ≤ (at8 { zero with upc := 4 }).core.upc ∧
    2 + 3 ≤ (at8 { zero with upc := 5 }).core.upc ∧
    (Instr.lda 15, 2) ∈ [(Instr.lda 15, 2), (Instr.add 15, 3)] ∧
    exec (.ldi 15) (at8 { zero with upc := 3 }) = .fault .microIndexPastEnd :=
  ⟨by decide, by decide, by decide, by decide, rfl⟩

theorem test_witness_LdaNetEffect :
    (about 0x1F).atLookup ∧ (about 0x1F).fetches 1 15 (some [0x00120, 0x00081]) :=
  ⟨⟨rfl, rfl⟩, by decide, by decide, rfl, rfl⟩

theorem test_witness_AluRowsNetEffect :
    (about 0x2F).atLookup ∧ (about 0x2F).cfg.aluModeMap = refAluModeMap ∧
    (about 0x2F).fetches 2 15 (some [0x00120, 0x00084, 0x00E01]) ∧
    (about 0x30).fetches 3 0 (some [0x00120, 0x00084, 0x01201]) ∧
    (about 0x7F).fetches 7 15 (some [0x00120, 0x00084, 0x00201]) ∧
    (about 0x8F).fetches 8 15 (some [0x00120, 0x00084, 0x00601]) ∧
    (about 0x9F).fetches 9 15 (some [0x00120, 0x00084, 0x00A01]) :=
  ⟨⟨rfl, rfl⟩, rfl, ⟨by decide, by decide, rfl, rfl⟩, ⟨by decide, by decide, rfl, rfl⟩,
    ⟨by decide, by decide, rfl, rfl⟩, ⟨by decide, by decide, rfl, rfl⟩, ⟨by decide, by decide, rfl, rfl⟩⟩

theorem test_witness_StaNetEffect :
    (about 0x45).atLookup ∧ (about 0x45).fetches 4 5 (some [0x00120, 0x00042]) :=
  ⟨⟨rfl, rfl⟩, by decide, by decide, rfl, rfl⟩

theorem test_witness_LdiAndTbaNetEffect :
    (about 0x5F).atLookup ∧ (about 0x5F).fetches 5 15 (some [0x00021]) ∧
    (about 0xA0).atLookup ∧ (about 0xA0).fetches 10 0 (some [0x00009]) :=
  ⟨⟨rfl, rfl⟩, ⟨by decide, by decide, rfl, rfl⟩, ⟨rfl, rfl⟩, by decide, by decide, rfl, rfl⟩

theorem test_witness_JmpNetEffect :
    (about 0x6F).atLookup ∧ (about 0x6F).fetches 6 15 (some [0x04020]) :=
  ⟨⟨rfl, rfl⟩, by decide, by decide, rfl, rfl⟩

theorem test_witness_OutNetEffect :
    (about 0xE0).atLookup ∧ (about 0xE0).fetches 14 0 (some [0x10002]) :=
  ⟨⟨rfl, rfl⟩, by decide, by decide, rfl, rfl⟩

theorem test_witness_HltNetEffect :
    (about 0xFF).atLookup ∧ (about 0xFF).fetches 15 15 (some [0x20000]) :=
  ⟨⟨rfl, rfl⟩, by decide, by decide, rfl, rfl⟩

theorem test_witness_SkippedInstructionNetEffect :
    ((about 0x0F).atLookup ∧ (about 0x0F).fetches 0 15 (some [])) ∧
    ((about 0xB7).atLookup ∧ (about 0xB7).fetches 11 7 none) :=
  ⟨⟨⟨rfl, rfl⟩, by decide, by decide, rfl, rfl⟩, ⟨rfl, rfl⟩, by decide, by decide, rfl, rfl⟩

theorem test_witness_StepRunsDecodedInstruction :
    let s := at8 { zero with upc := 2, ir := 0xFF }
    (at8 zero).core.halt = false ∧ (at8 zero).core.upc = 0 ∧ (at8 { zero with upc := 1 }).core.upc = 1 ∧
    s.core.halt = false ∧ 2 ≤ s.core.upc ∧ s.cfg.microcode = refMicrocode ∧
    decodeWord (s.width / 2) s.core.ir.toNat = .ok (.hlt 15) :=
  ⟨rfl, rfl, rfl, rfl, by decide, rfl, rfl⟩

theorem test_witness_FetchedInstructionRunsThird :
    (about 0x2F).atLookup ∧ (about 0x2F).cfg.microcode = refMicrocode ∧
    decodeWord ((about 0x2F).width / 2) (about 0x2F).nextWord.toNat = .ok (.add 15) :=
  ⟨⟨rfl, rfl⟩, rfl, rfl⟩

theorem test_witness_HaltedMachineNeverChanges : (at8 { zero with halt := true }).core.halt = true := by decide

theorem test_witness_UndefinedOpcodeKeepsRunning :
    let s := at8 { zero with upc := 2, ir := 0xD8 }
    let t := at8 { zero with upc := 7, ir := 0x0F }
    (s.core.halt = false ∧ 2 ≤ s.core.upc ∧ s.cfg.microcode.lookup (hiHalf s.core.ir) = none) ∧
    (t.core.halt = false ∧ 2 ≤ t.core.upc ∧ t.cfg.microcode.lookup (hiHalf t.core.ir) = some []) := by decide

/-- At the first and at the last word of a list; the word has every line but five of the six drivers. -/
theorem test_witness_ExecuteTickAssertsItsWord :
    let l := [0x3FD55, 0]
    let s := tabled [(0, l)] { zero with upc := 2 }
    let t := tabled [(0, l)] { zero with upc := 3 }
    (s.core.halt = false ∧ s.core.upc = 0 + 2 ∧ s.cfg.microcode.lookup (hiHalf s.core.ir) = some l ∧
      l[0]? = some 0x3FD55 ∧ 0x3FD55 < 2 ^ 18 ∧ (ControlWord.ofNat 0x3FD55).driverCount ≤ 1) ∧
    (t.core.halt = false ∧ t.core.upc = 1 + 2 ∧ t.cfg.microcode.lookup (hiHalf t.core.ir) = some l ∧
      l[1]? = some 0 ∧ (ControlWord.ofNat 0).driverCount ≤ 1) := by decide

/-- Each stop's condition holds somewhere; at the last index of the list it is no fault. -/
theorem test_witness_TickStopsExactlyThere :
    let l := [0x40000, 0x0000A]
    let s := fun u => tabled [(0, l)] { zero with upc := u }
    ((s 4).core.halt = false ∧ (s 4).core.upc = 2 + 2 ∧ (s 4).cfg.microcode.lookup (hiHalf (s 4).core.ir) = some l ∧
      l ≠ [] ∧ l.length ≤ 2) ∧
    ((s 2).core.upc = 0 + 2 ∧ l[0]? = some 0x40000 ∧ 2 ^ 18 ≤ 0x40000) ∧
    ((s 3).core.upc = 1 + 2 ∧ ¬ l.length ≤ 1 ∧ l[1]? = some 0x0000A ∧ 0x0000A < 2 ^ 18 ∧
      2 ≤ (ControlWord.ofNat 0x0000A).driverCount) := by decide

/-- A halted machine at a bad index, and an undefined opcode at a large pointer, do not stop. -/
theorem test_no_stop_elsewhere :
    step (tabled [(0, [0x40000])] { zero with upc := 2, halt := true }) =
      .next (tabled [(0, [0x40000])] { zero with upc := 2, halt := true }) ∧
    seen (step (at8 { zero with upc := 9, ir := 0xB7, pc := 5 })) = some [0, 0, 0xB7, 5, 5, 5, 1] := ⟨rfl, by decide⟩

theorem test_witness_InstructionTakesTwoPlusLengthTicks :
    (about 0x2F).atLookup ∧ (about 0x2F).fetches 2 15 (some refAdd) ∧ refAdd ≠ [] ∧ microListOk refAdd = true ∧
    (∀ w ∈ refAdd.dropLast, (ControlWord.ofNat w).hlt = false) ∧
    (about 0xF0).fetches 15 0 (some refHlt) ∧ microListOk refHlt = true ∧
    (∀ w ∈ refHlt.dropLast, (ControlWord.ofNat w).hlt = false) :=
  ⟨⟨rfl, rfl⟩, ⟨by decide, by decide, rfl, rfl⟩, by decide, by decide, by decide, ⟨by decide, by decide, rfl, rfl⟩,
    by decide, by decide⟩

/-- For the six drivers, the empty word, and a word with every capture. -/
theorem test_witness_DriverReachesEveryCapture :
    (∀ w ∈ [0x00002, 0x00008, 0x00020, 0x00080, 0x08000, 0x00200], (ControlWord.ofNat w).driverCount = 1) ∧
    (ControlWord.ofNat 0).driverCount = 0 ∧
    (ControlWord.ofNat 0x14157).driverCount ≤ 1 ∧ (ControlWord.ofNat 0x14157).lines =
      [.ai, .ao, .bi, .ii, .ri, .mi, .ci, .oi] ∧ zero.out = some { value := 0, trace := [] } := by decide

theorem test_witness_ElementsWrittenOnlyByTheirLines :
    let s := tabled [(0, [0])] { zero with upc := 2 }
    let t := tabled [(0, [0x00042])] { zero with upc := 2, a := 4, mar := 0xFF }
    (s.core.halt = false ∧ step s = .next (s.setCore { zero with upc := 0 })) ∧
    (t.core.halt = false ∧ step t = .next (t.setCore
      { zero with upc := 0, a := 4, mar := 0xFF, bus := 4, mem := [(0xFF, 4)], cw := { ao := true, ri := true } })) :=
  ⟨⟨rfl, rfl⟩, rfl, rfl⟩

theorem test_witness_CounterUnderAnyWord :
    let w : ControlWord := { co := true, ci := true, ce := true }
    (w.driverCount ≤ 1 ∧ w.ci = true ∧ w.co = true) ∧
    (({ ce := true } : ControlWord).driverCount ≤ 1 ∧ ({ ce := true } : ControlWord).ci = false) ∧
    ControlWord.empty.driverCount ≤ 1 ∧ ControlWord.empty.ce = false := by decide

theorem test_witness_SameRegisterInAndOut :
    ∀ w ∈ [({ ai := true, ao := true } : ControlWord), { bi := true, bo := true }, { ii := true, io := true },
      { ci := true, co := true }], w.driverCount ≤ 1 := by decide

theorem test_witness_AddressCaptureBetweenReadAndWrite :
    ∀ w ∈ [({ ro := true, mi := true } : ControlWord), { mi := true, ri := true }, { ro := true, ri := true },
      { ro := true, ri := true, mi := true }], w.driverCount ≤ 1 := by decide

theorem test_witness_OrderInsideABandUnobservable :
    ({ zero with cw := { eo := true, m1 := true } } : CoreState 8).cw.driverCount ≤ 1 ∧
    [CoreState.incrementPc (n := 8), CoreState.captureMar].Perm [CoreState.captureMar, CoreState.incrementPc] :=
  ⟨by decide, List.Perm.swap _ _ _⟩

theorem test_witness_UnmappedModeCodeIsSubtract :
    refAluModeMap.lookup 5 = none ∧ refAluModeMap.lookup 7 = none := by decide

theorem test_witness_OnlyTheCoreChanges :
    exec .ai (at8 { zero with bus := 3, cw := { ai := true } }) = .next (at8 { zero with bus := 3, a := 3, cw := { ai := true } }) ∧
    step (at8 { zero with halt := true }) = .next (at8 { zero with halt := true }) := ⟨rfl, rfl⟩

/-- `M1` meets every clause's premise but the one on `IR` of the `REF` rows, which `NOP` meets. -/
theorem test_witness_FrameOfEveryInstruction :
    exec .m1 (at8 zero) = .next ((at8 zero).setCore zero) ∧ (encode .m1).1 = .control ∧
    exec (.nop 15) (at8 zero) = .next ((at8 zero).setCore { zero with ir := 0x0F, upc := 1, cw := { co := true, mi := true } }) ∧
    (encode (.nop 15)).1 = .instruction := ⟨rfl, rfl, rfl, rfl⟩

theorem test_reset_inv : State.reset.inv = true := by decide

/-- For `StepKeepsInvariant` and `BuiltMachineNeverStops`. -/
theorem test_witness_StepKeepsInvariant_BuiltMachineNeverStops :
    State.reset.inv = true ∧
    step State.reset = .next (State.reset.setCore { zero with upc := 1, cw := { co := true, mi := true } }) :=
  ⟨by decide, rfl⟩

/-- For `ConstructedMachineMeetsInvariant`, `ConstructedMachineIsReset` and `FirstTicksAfterReset`. -/
theorem test_witness_construct : construct referenceParams = .ok State.reset := by rfl

theorem test_witness_ConstructRefusesBadWidths :
    let q := fun c => ({ referenceParams with components := c } : BuildParams)
    let c := ComponentWidths.all 8
    ((0 : Int) ≤ 0 ∧ (-2 : Int) ≤ 0 ∧ (7 : Int) % 2 = 1) ∧ 0 < (q c).width ∧ (q c).width % 2 = 0 ∧
    (q { c with a := 4 }).components.a ≠ 8 ∧ (q { c with b := 4 }).components.b ≠ 8 ∧
    (q { c with ir := 4 }).components.ir ≠ 8 ∧ (q { c with pc := 4 }).components.pc ≠ 8 ∧
    (q { c with mar := 4 }).components.mar ≠ 8 ∧ (q { c with ram := 4 }).components.ram ≠ 8 ∧
    (q { c with alu := 4 }).components.alu ≠ 8 ∧
    ((q { c with out := 4 }).hasOut = true ∧ (q { c with out := 4 }).components.out ≠ 8) := by decide

/-- A full RAM and one word too many; two words behind an origin up to the top word and one past it; an origin past the top
with no word; at `N = 2`. -/
theorem test_witness_ImageLoad :
    ([1, 2, 3, 4] : List Int).length ≤ 2 ^ 2 ∧ 2 ^ 2 < ([1, 2, 3, 4, 5] : List Int).length ∧
    loadImage 2 [.word 1] = some [(0, 1)] ∧ 2 + ([7, 9] : List Int).length ≤ 2 ^ 2 ∧
    2 ^ 2 < 3 + ([7, 9] : List Int).length ∧ ([] : List Int) = [] ∧
    loadImage 2 [.origin 4, .word 1] = none := by decide

/-- Two words behind an origin: the second continues from its address (spec/20 R62). -/
theorem test_image_continues :
    (loadImage 8 [.word 1, .origin 3, .word 7, .word 9]).map (fun mem => words mem 6) = some [1, 0, 0, 7, 9, 0] := by decide

theorem test_witness_DecodeOfEncodeAtEveryWidth :
    (4 ≤ 4 ∧ (Instr.hlt 15).wfAt 4 = true ∧ (encodeAt 4 (.hlt 15)).1 = .instruction) ∧
    (4 ≤ 8 ∧ (Instr.sta 255).wfAt 8 = true ∧ (encodeAt 8 (.sta 255)).1 = .instruction) := by decide

theorem test_witness_EveryWordDecodes_ControlWordNumberingIsFaithful : 255 < 256 ∧ 0x3FFFF < 2 ^ 18 := by decide

theorem test_witness_WellFormedControlWords :
    decodeControlWord 0x20000 = .ok { hlt := true } ∧ 2 ^ 18 ≤ 0x40000 ∧
    0x3FFFF < 2 ^ 18 ∧ 2 ≤ (ControlWord.ofNat 0x3FFFF).driverCount := ⟨rfl, by decide, by decide, by decide⟩

theorem test_witness_TickSourcesAreExclusive :
    ((at8 { zero with halt := true }).clock.busy = false ∧
      step (at8 { zero with halt := true }) = .next (at8 { zero with halt := true })) ∧
    ((at8 zero).setBusy true).clock.busy = true := ⟨⟨rfl, rfl⟩, rfl⟩

theorem test_witness_ClockControls :
    State.reset.cfg.intervalMin ≤ State.reset.cfg.intervalMax ∧ State.reset.cfg.intervalMin ≤ 1 ∧
    10000 ≤ State.reset.cfg.intervalMax := by decide

end Sys2Proof.Tests
end

section
/-! The clock (spec/40 R96 to R106): what a halted machine's ticks and the host's events leave of the state. -/
namespace Sys2Proof.Machine

/-! ## The re-entrancy guard (spec/40 R101) -/

@[simp] theorem State.setBusy_setBusy (s : State) (b c : Bool) : (s.setBusy b).setBusy c = s.setBusy c := rfl

@[simp] theorem State.setBusy_self (s : State) : s.setBusy s.clock.busy = s := rfl

theorem guardedTick_of_busy {s : State} (h : s.clock.busy = true) : guardedTick s = .next s := by
  simp [guardedTick, h]

theorem guardedTick_of_next {s t : State} (hb : s.clock.busy = false) (h : step (s.setBusy true) = .next t) :
    guardedTick s = .next (t.setBusy false) := by
  simp [guardedTick, hb, h]

/-! ## Ticks of a halted machine (spec/40 R98, R102) -/

theorem step_of_halt {s : State} (h : s.core.halt = true) : step s = .next s := by
  simp [step, h]

theorem ticks_of_halt {s : State} (h : s.core.halt = true) (k : Nat) : ticks k s = .next s := by
  induction k with
  | zero => rfl
  | succ k ih => rw [ticks_succ_of_next (step_of_halt h), ih]

/-- The guard raises `BUSY` only where it was down, so lowering it again gives the whole state back, clock included. -/
theorem guardedTick_of_halt {s : State} (h : s.core.halt = true) : guardedTick s = .next s := by
  cases hb : s.clock.busy with
  | true => exact guardedTick_of_busy hb
  | false => rw [guardedTick_of_next hb (step_of_halt h), State.setBusy_setBusy, ← hb, State.setBusy_self]

/-- Neither source of ticks changes anything of a halted machine, its clock included. -/
theorem clockEvent_tick_of_halt {s : State} (h : s.core.halt = true) :
    clockEvent .timerFires s = .next s ∧ clockEvent .stepRequest s = .next s := by
  simp [clockEvent, guardedTick_of_halt h]

/-- Settles O27: `step` returns a halted machine at entry, so by induction every run does; of the host's events the two
sources of ticks give the state back and the two controls touch the clock alone. -/
theorem haltedMachineNeverChanges : Obligations.HaltedMachineNeverChanges := by
  intro s h
  obtain ⟨htimer, hstep⟩ := clockEvent_tick_of_halt h
  refine ⟨ticks_of_halt h, fun e => ?_⟩
  cases e with
  | timerFires => exact ⟨s.clock, htimer⟩
  | stepRequest => exact ⟨s.clock, hstep⟩
  | setEnabled b => exact ⟨{ s.clock with enabled := b }, rfl⟩
  | setInterval t => exact ⟨{ s.clock with interval := clampInterval s.cfg t }, rfl⟩

/-! ## The host's controls (spec/40 R103, R106) -/

theorem intervalMin_le_clampInterval {cfg : Config} (h : cfg.intervalMin ≤ cfg.intervalMax) (t : Nat) :
    cfg.intervalMin ≤ clampInterval cfg t :=
  Nat.le_min.mpr ⟨Nat.le_max_right _ _, h⟩

theorem clampInterval_le_intervalMax (cfg : Config) (t : Nat) : clampInterval cfg t ≤ cfg.intervalMax :=
  Nat.min_le_right _ _

theorem clampInterval_of_mem {cfg : Config} {t : Nat} (hmin : cfg.intervalMin ≤ t) (hmax : t ≤ cfg.intervalMax) :
    clampInterval cfg t = t := by
  rw [clampInterval, Nat.max_eq_left hmin, Nat.min_eq_left hmax]

/-- Settles O60: each control writes its own field, and the interval written is the clamped one. -/
theorem clockControls : Obligations.ClockControls := by
  intro s b t
  refine ⟨rfl, clampInterval s.cfg t, rfl, rfl, fun hrange => ?_⟩
  exact ⟨intervalMin_le_clampInterval hrange t, clampInterval_le_intervalMax s.cfg t, clampInterval_of_mem⟩

end Sys2Proof.Machine
end

section
/-! The register and counter lines (spec/41): what `exec` of one line does, and the value the instruction register drives. -/
namespace Sys2Proof.Machine

/-! ## The row of a line is its component's one action on the machine's own state (spec/41 R121 to R126, R132, R133) -/

section RegisterRows
variable (s : State)

@[simp] theorem exec_ai : exec .ai s = .next (s.setCore s.core.captureA) := rfl
@[simp] theorem exec_ao : exec .ao s = .next (s.setCore s.core.driveA) := rfl
@[simp] theorem exec_bi : exec .bi s = .next (s.setCore s.core.captureB) := rfl
@[simp] theorem exec_bo : exec .bo s = .next (s.setCore s.core.driveB) := rfl
@[simp] theorem exec_ii : exec .ii s = .next (s.setCore s.core.captureIr) := rfl
@[simp] theorem exec_io : exec .io s = .next (s.setCore s.core.driveIr) := rfl
@[simp] theorem exec_ci : exec .ci s = .next (s.setCore s.core.capturePc) := rfl
@[simp] theorem exec_co : exec .co s = .next (s.setCore s.core.drivePc) := rfl

end RegisterRows

/-- Settles O1: each action is guarded by its line's flag and writes one element, the register (a capture) or the bus
(a drive), which is what its definition says. -/
theorem registerLinesCaptureAndDrive : Obligations.RegisterLinesCaptureAndDrive := fun s =>
  ⟨exec_ai s, exec_ao s, exec_bi s, exec_bo s, exec_ci s, exec_co s⟩

/-! ## What the instruction register drives (spec/30 R72, spec/41 R126) -/

theorem loHalf_lt_two_pow {n : Nat} (v : Word n) : loHalf v < 2 ^ n :=
  Nat.lt_of_le_of_lt (Nat.mod_le _ _) v.isLt

/-- The low half fits the width, so `IO` drives it whole. -/
@[simp] theorem operandWord_toNat {n : Nat} (v : Word n) : (operandWord v).toNat = loHalf v := by
  rw [operandWord, BitVec.toNat_ofNat, Nat.mod_eq_of_lt (loHalf_lt_two_pow v)]

/-- Settles O2: `II` writes `IR` alone, `IO` the bus alone, and the value driven is `operandWord` of `IR`. -/
theorem instructionRegisterLines : Obligations.InstructionRegisterLines := fun s =>
  ⟨exec_ii s, operandWord s.core.ir, exec_io s, operandWord_toNat s.core.ir⟩

end Sys2Proof.Machine
end

section
/-! The RAM lines (spec/42): what `exec` of one line does. -/
namespace Sys2Proof.Machine

/-! ## The row of a line is the RAM's one action on the machine's own state (spec/42 R151 to R153) -/

section RamRows
variable (s : State)

@[simp] theorem exec_mi : exec .mi s = .next (s.setCore s.core.captureMar) := rfl
@[simp] theorem exec_ro : exec .ro s = .next (s.setCore s.core.driveRam) := rfl
@[simp] theorem exec_ri : exec .ri s = .next (s.setCore s.core.captureRam) := rfl

end RamRows

/-- Settles O5: `MI` writes `MAR` alone and `RO` the bus alone. The memory `RI` leaves is `memWrite` at `MAR`, and a read
after that write sees the bus at `MAR` and the old word everywhere else. -/
theorem ramLines : Obligations.RamLines := fun s =>
  ⟨exec_mi s, exec_ro s, memWrite s.core.mem s.core.mar.toNat s.core.bus, exec_ri s,
    fun a => memRead_memWrite s.core.mem s.core.mar.toNat a s.core.bus⟩

end Sys2Proof.Machine
end

section
/-! The ALU (spec/43): each of its operations is the modular or the bitwise one of `BitVec`, at every width. -/
namespace Sys2Proof.Machine

variable {n : Nat}

/-! ## The ripple-carry loop is the adder with carry-in (spec/43 R171, R172, R174) -/

/-- After all `n` positions `ripple_spec` gives the loop's bits, and they are the bits of the sum with carry-in. -/
theorem rippleSum_eq_add_add_carryIn (a b : Word n) (c : Bool) :
    rippleSum a b c = a + b + (BitVec.ofBool c).setWidth n := by
  obtain ⟨-, hbits⟩ := ripple_spec a b c n (Nat.le_refl n)
  apply BitVec.eq_of_getLsbD_eq
  intro i hi
  rw [rippleSum, hbits, decide_eq_true hi, Bool.true_and, BitVec.getLsbD_add_add_bool hi]

@[simp] theorem rippleSum_false (a b : Word n) : rippleSum a b false = a + b := by
  simp [rippleSum_eq_add_add_carryIn]

/-- The carry-in completes the two's complement: `a + ~b + 1` is `a + (-b)`. -/
@[simp] theorem rippleSum_not_true (a b : Word n) : rippleSum a (~~~b) true = a - b := by
  have hone : (BitVec.ofBool true).setWidth n = 1#n := BitVec.eq_of_toNat_eq (by simp)
  rw [rippleSum_eq_add_add_carryIn, hone, BitVec.add_assoc, ← BitVec.neg_eq_not_add, BitVec.sub_eq_add_neg]

/-! ## The five operations (spec/43 R168 to R172) -/

section Operations
variable (a b : Word n)

@[simp] theorem aluResult_and : aluResult .and a b = a &&& b := rfl
@[simp] theorem aluResult_or : aluResult .or a b = a ||| b := rfl
@[simp] theorem aluResult_xor : aluResult .xor a b = a ^^^ b := rfl
@[simp] theorem aluResult_add : aluResult .add a b = a + b := rippleSum_false a b
@[simp] theorem aluResult_sub : aluResult .sub a b = a - b := rippleSum_not_true a b

end Operations

/-- The difference of words with the non-negative modulus: the `2 ^ n` that keeps a natural difference from going below 0
vanishes modulo `2 ^ n`. -/
theorem natCast_toNat_sub (a b : Word n) :
    ((a - b).toNat : Int) = ((a.toNat : Int) - (b.toNat : Int)) % (2 ^ n : Nat) := by
  have hshift : ((2 ^ n - b.toNat + a.toNat : Nat) : Int) = (a.toNat : Int) - b.toNat + (2 ^ n : Nat) := by
    have := b.isLt
    omega
  rw [BitVec.toNat_sub, Int.natCast_emod, hshift, Int.add_emod_right]

/-- Settles O38: the loops are `BitVec`'s `+` and `-`, so the values and the laws are those of modular arithmetic. -/
theorem rippleCarryIsModularArithmetic : Obligations.RippleCarryIsModularArithmetic := by
  intro n a b
  simp only [aluResult_add, aluResult_sub, rippleSum_false, rippleSum_not_true, true_and]
  exact ⟨BitVec.toNat_add a b, natCast_toNat_sub a b,
    BitVec.add_comm a b, BitVec.add_zero a, BitVec.sub_self a, BitVec.sub_zero a⟩

/-- Settles O40: the three operations are `BitVec`'s `&&&`, `|||` and `^^^`, whose bits and laws the library has. -/
theorem bitwiseOperationsAndTheirLaws : Obligations.BitwiseOperationsAndTheirLaws := by
  intro n a b
  simp only [aluResult_and, aluResult_or, aluResult_xor]
  exact ⟨fun _ => ⟨BitVec.getLsbD_and, BitVec.getLsbD_or, BitVec.getLsbD_xor⟩,
    BitVec.and_comm a b, BitVec.or_comm a b, BitVec.xor_comm a b,
    BitVec.and_self, BitVec.or_self, BitVec.xor_self,
    BitVec.and_zero, BitVec.or_zero, BitVec.xor_zero,
    BitVec.and_allOnes, BitVec.or_allOnes, BitVec.xor_allOnes⟩

end Sys2Proof.Machine
end

section
/-! The control logic (spec/44): the `HLT` line, the sequencer's rows, and the EXECUTE tick over any configured table. `step`
dispatches through the rows of `REF` where the table agrees with it; that dispatch answers what `seq` does. -/
namespace Sys2Proof.Machine

/-! ## The control line `HLT` (spec/44 R194) -/

@[simp] theorem exec_hltLine (s : State) : exec .hltLine s = .next (s.setCore s.core.raiseHalt) := rfl

/-- Settles O7: `raiseHalt` writes `true` under its flag and hands the state back without it. -/
theorem haltLine : Obligations.HaltLine := by
  intro s
  constructor <;> intro hflag
  · rw [exec_hltLine, CoreState.raiseHalt, if_pos hflag]
    rfl
  · rw [exec_hltLine, CoreState.raiseHalt, if_neg (ne_true_of_eq_false hflag)]
    rfl

/-! ## LOOKUP and SKIP-AHEAD (spec/44 R187, R190) -/

/-- The state after a tick under `CO|MI` that leaves the pointer at 1. -/
def State.lookedUp (s : State) : State :=
  s.setCore { s.core with bus := s.core.pc, mar := s.core.pc, upc := 1, cw := { co := true, mi := true } }

theorem State.withOutcome_follow_lookupWord (s : State) :
    s.withOutcome (s.core.follow s.cfg.aluModeMap (.asserts lookupWord 1)) = .next s.lookedUp := by
  rw [CoreState.follow_coMi]
  rfl

theorem exec_lookup (s : State) : exec .lookup s = .next s.lookedUp :=
  s.withOutcome_follow_lookupWord

/-- An undefined opcode's entry asserts the LOOKUP word, whatever the pointer. -/
theorem exec_skipAhead (s : State) : exec .skipAhead s = .next s.lookedUp :=
  s.withOutcome_follow_lookupWord

/-- Settles O8: both rows assert `CO|MI` and set the pointer to 1. -/
theorem lookupAndSkipAhead : Obligations.LookupAndSkipAhead := fun s =>
  ⟨exec_lookup s, exec_skipAhead s⟩

/-! ## The EXECUTE tick over the configured table (spec/44 R189 to R191) -/

/-- The row of `REF` a word decodes to runs the entry `REF` gives the word's opcode: a case for each of the 16 opcodes. -/
theorem exec_of_decodeWord {h w : Nat} {i : Instr} (hi : decodeWord h w = .ok i) (s : State) :
    exec i s = executeRow (w / 2 ^ h) (w % 2 ^ h) (refMicrocode.lookup (w / 2 ^ h)) s := by
  unfold decodeWord at hi
  split at hi
  all_goals cases hi
  all_goals
    rename_i hopcode
    rw [hopcode]
    rfl

/-- What EXECUTE selects for an opcode with this entry where it runs no row of `REF`. -/
def selectConfigured : Option (List Nat) → Selected
  | none => .row .skipAhead
  | some [] => .row .skipAhead
  | some (w :: rest) => .configured (w :: rest)

/-- EXECUTE selects the row of `REF` that `IR` holds, and that only where the table agrees with `REF` on its opcode; or it
selects by the configured entry alone. -/
theorem selectExecute_cases {n : Nat} (microcode : List (Nat × List Nat)) (ir : Word n) :
    (∃ i, microcode.lookup (hiHalf ir) = refMicrocode.lookup (hiHalf ir) ∧ decodeWord (n / 2) ir.toNat = .ok i ∧
      selectExecute microcode ir = .row i) ∨
    selectExecute microcode ir = selectConfigured (microcode.lookup (hiHalf ir)) := by
  by_cases href : microcode.lookup (hiHalf ir) = refMicrocode.lookup (hiHalf ir)
  · cases hi : decodeWord (n / 2) ir.toNat with
    | ok i => exact .inl ⟨i, href, rfl, by simp only [selectExecute, if_pos href, hi]⟩
    | error e =>
      right
      simp only [selectExecute, if_pos href, hi]
      rfl
  · right
    simp only [selectExecute, if_neg href]
    rfl

theorem runSelected_selectConfigured (entry : Option (List Nat)) (s : State) :
    runSelected (selectConfigured entry) s =
      s.withOutcome (s.core.follow s.cfg.aluModeMap (executeEntry entry (s.core.upc - 2))) := by
  match entry with
  | none => rfl
  | some [] => rfl
  | some (_ :: _) => rfl

/-- Whichever way EXECUTE dispatches, the tick follows the configured entry of the opcode in `IR`. -/
theorem runSelected_selectExecute (s : State) :
    runSelected (selectExecute s.cfg.microcode s.core.ir) s =
      s.withOutcome (s.core.follow s.cfg.aluModeMap
        (executeEntry (s.cfg.microcode.lookup (hiHalf s.core.ir)) (s.core.upc - 2))) := by
  obtain ⟨i, href, hi, hsel⟩ | hsel := selectExecute_cases s.cfg.microcode s.core.ir
  · calc runSelected (selectExecute s.cfg.microcode s.core.ir) s
        = executeRow (hiHalf s.core.ir) (loHalf s.core.ir) (refMicrocode.lookup (hiHalf s.core.ir)) s := by
          rw [hsel]; exact exec_of_decodeWord hi s
      _ = _ := by rw [executeRow, CoreState.holding_halves, href]
  · rw [hsel, runSelected_selectConfigured]

/-! ## The step of a running machine (spec/44 R186) -/

/-- The step of a running machine follows what the sequencer chooses by its pointer (spec/44 R186). -/
theorem step_of_not_halt {s : State} (hrun : s.core.halt = false) :
    step s = s.withOutcome (s.core.follow s.cfg.aluModeMap (seq s.core.upc s.core.ir s.cfg.microcode)) := by
  rw [step, if_neg (ne_true_of_eq_false hrun)]
  match hupc : s.core.upc with
  | 0 => rw [select, hupc]; rfl
  | 1 => rw [select, hupc]; rfl
  | k + 2 =>
    rw [select, hupc]
    exact (runSelected_selectExecute s).trans (by rw [hupc]; rfl)

/-- At a pointer of `k + 2` the machine follows the entry of the opcode in `IR` at micro-step index `k`. -/
theorem step_of_upc_eq_add_two {s : State} {k : Nat} (hrun : s.core.halt = false) (hupc : s.core.upc = k + 2) :
    step s = s.withOutcome (s.core.follow s.cfg.aluModeMap
      (executeEntry (s.cfg.microcode.lookup (hiHalf s.core.ir)) k)) := by
  rw [step_of_not_halt hrun, hupc]
  rfl

/-- Settles O28: an undefined or empty entry asserts the LOOKUP word and the pointer 1, whatever the index. -/
theorem undefinedOpcodeKeepsRunning : Obligations.UndefinedOpcodeKeepsRunning := by
  intro s hrun hge hentry
  obtain ⟨k, hupc⟩ := Nat.exists_eq_add_of_le' hge
  have hskip : executeEntry (s.cfg.microcode.lookup (hiHalf s.core.ir)) k = .asserts lookupWord 1 := by
    obtain hnone | hempty := hentry
    · rw [hnone]; rfl
    · rw [hempty]; rfl
  rw [step_of_upc_eq_add_two hrun hupc, hskip]
  exact s.withOutcome_follow_lookupWord

/-- Inside its list an opcode asserts the word at the index. -/
theorem executeEntry_of_getElem? {l : List Nat} {k w : Nat} (hw : l[k]? = some w) :
    executeEntry (some l) k = .asserts w (if k + 1 = l.length then 0 else k + 3) := by
  cases l with
  | nil => simp at hw
  | cons v rest => simp [executeEntry, hw]

/-- A ROM word with no bit above 17 and at most one driver is the set of lines its bits name (spec/30 R74). -/
theorem decodeControlWord_of_wf {w : Nat} (hbits : w < 2 ^ 18) (hdrivers : (ControlWord.ofNat w).driverCount ≤ 1) :
    decodeControlWord w = .ok (ControlWord.ofNat w) := by
  rw [decodeControlWord, if_neg (Nat.not_le.mpr hbits), if_neg (by omega)]

/-- Settles O29: the entry asserts its word `k`, which is well formed and so runs its bands; `k` is the last index exactly
if `k + 1` is the list's length. -/
theorem executeTickAssertsItsWord : Obligations.ExecuteTickAssertsItsWord := by
  intro s l k w hrun hupc hentry hw hbits hdrivers
  have hlt : k < l.length := (List.getElem?_eq_some_iff.mp hw).1
  have hlast : k = l.length - 1 ↔ k + 1 = l.length := by omega
  rw [step_of_upc_eq_add_two hrun hupc, hentry, executeEntry_of_getElem? hw,
    CoreState.follow_of_ok (decodeControlWord_of_wf hbits hdrivers), hupc]
  simp only [hlast]
  rfl

end Sys2Proof.Machine
end

section
/-! The encodings (spec/30, spec/00 R15): control words as sets of lines, the rows of `REF` as words, boolean vectors. -/
namespace Sys2Proof.Machine

/-! ## Boolean vectors (spec/00 R15) -/

theorem toInt_lt (v : List Bool) : toInt v < 2 ^ v.length := by
  induction v with
  | nil => decide
  | cons b rest ih =>
    rw [toInt, List.length_cons, Nat.pow_succ]
    have := Nat.mul_le_mul_right (2 ^ rest.length) (Bool.toNat_le b)
    omega

@[simp] theorem fromInt_length (k : Int) (w : Nat) : (fromInt k w).length = w := by
  induction w with
  | zero => rfl
  | succ w ih => rw [fromInt, List.length_cons, ih]

/-- The residue modulo `2^(w+1)` has one bit more than the residue modulo `2^w`. -/
theorem emod_two_pow_succ (k : Int) (w : Nat) : k % 2 ^ (w + 1) = k / 2 ^ w % 2 * 2 ^ w + k % 2 ^ w := by
  have hpos : (0 : Int) < 2 ^ w := Int.pow_pos (by decide)
  rw [Int.pow_succ]
  generalize (2 : Int) ^ w = p at hpos
  have hsplit : k = k / p % 2 * p + k % p + p * 2 * (k / p / 2) := by
    calc k = p * (k / p) + k % p := (Int.mul_ediv_add_emod k p).symm
      _ = p * (2 * (k / p / 2) + k / p % 2) + k % p := by rw [Int.mul_ediv_add_emod (k / p) 2]
      _ = k / p % 2 * p + k % p + p * 2 * (k / p / 2) := by
        rw [Int.mul_add, ← Int.mul_assoc, Int.mul_comm p (k / p % 2)]
        omega
  have hnonneg := Int.emod_nonneg k (Int.ne_of_gt hpos)
  have hlt := Int.emod_lt_of_pos k hpos
  conv => lhs; rw [hsplit]
  rw [Int.add_mul_emod_self_left]
  obtain h | h := Int.emod_two_eq (k / p) <;> rw [h] <;> exact Int.emod_eq_of_lt (by omega) (by omega)

/-- The vector of `k` holds `k` modulo `2^w`: its first index is the top bit of that residue. -/
theorem toInt_fromInt (k : Int) (w : Nat) : ((toInt (fromInt k w) : Nat) : Int) = k % (2 ^ w : Nat) := by
  induction w with
  | zero =>
    rw [fromInt, toInt, Nat.pow_zero]
    exact (Int.emod_one k).symm
  | succ w ih =>
    have hbit : ((decide (k / 2 ^ w % 2 = 1)).toNat : Int) = k / 2 ^ w % 2 := by
      obtain h | h := Int.emod_two_eq (k / 2 ^ w) <;> rw [h] <;> rfl
    rw [fromInt, toInt, fromInt_length, Int.natCast_add, ih, Int.natCast_mul, hbit, Int.natCast_pow, Int.natCast_pow]
    exact (emod_two_pow_succ k w).symm

theorem fromInt_getElem? (k : Int) {w i : Nat} (hi : i < w) :
    (fromInt k w)[i]? = some (decide (k / 2 ^ (w - 1 - i) % 2 = 1)) := by
  induction w generalizing i with
  | zero => omega
  | succ w ih =>
    cases i with
    | zero => simp [fromInt]
    | succ i =>
      rw [fromInt, List.getElem?_cons_succ, ih (by omega), show w + 1 - 1 - (i + 1) = w - 1 - i by omega]

/-- Vectors of one length with one integer are the same: the top bit is what the rest cannot reach. -/
theorem toInt_inj {u v : List Bool} (hlen : u.length = v.length) (h : toInt u = toInt v) : u = v := by
  induction u generalizing v with
  | nil => exact (List.length_eq_zero_iff.mp hlen.symm).symm
  | cons b u ih =>
    cases v with
    | nil => cases hlen
    | cons c v =>
      have hlen' : u.length = v.length := by simpa using hlen
      have hu := toInt_lt u
      have hv := toInt_lt v
      rw [toInt, toInt, hlen'] at h
      rw [hlen'] at hu
      have hbc : b = c := by
        cases b <;> cases c <;> simp at h ⊢ <;> omega
      subst hbc
      rw [ih hlen' (by omega)]

theorem fromInt_toInt (v : List Bool) : fromInt (toInt v) v.length = v := by
  refine toInt_inj (fromInt_length _ _) (Int.ofNat.inj ?_)
  rw [Int.ofNat_eq_natCast, toInt_fromInt, ← Int.natCast_emod, Nat.mod_eq_of_lt (toInt_lt v)]
  rfl

/-- A bit of a natural, as `fromInt` computes it. -/
theorem testBit_eq_decide_int (x k : Nat) : x.testBit k = decide ((x : Int) / 2 ^ k % 2 = 1) := by
  rw [Nat.testBit_eq_decide_div_mod_eq, decide_eq_decide]
  norm_cast

/-- Index `i` of a vector is bit `W - 1 - i` of its integer. -/
theorem testBit_toInt {v : List Bool} {i : Nat} (hi : i < v.length) :
    (toInt v).testBit (v.length - 1 - i) = v.getD i false := by
  have hbit := fromInt_getElem? (toInt v) hi
  rw [fromInt_toInt] at hbit
  rw [List.getD_eq_getElem?_getD, hbit, Option.getD_some, testBit_eq_decide_int]

/-- Settles O57: the vector of an integer holds its residue, a vector is the one of its integer, and so the bits of that
integer are the vector's. -/
theorem booleanVectorRoundTrip : Obligations.BooleanVectorRoundTrip :=
  ⟨fun v => ⟨fromInt_toInt v, fun _ hi => testBit_toInt hi⟩,
    fun k w => ⟨toInt_fromInt k w, fromInt_length k w, fun _ hi => fromInt_getElem? k hi⟩⟩

/-! ## Control words (spec/30 R73, R74) -/

theorem decodeControlWord_of_ge {w : Nat} (hbits : 2 ^ 18 ≤ w) : decodeControlWord w = .error .lineAbove17 := by
  rw [decodeControlWord, if_pos hbits]

theorem decodeControlWord_of_two_le {w : Nat} (hbits : w < 2 ^ 18)
    (hdrivers : 2 ≤ (ControlWord.ofNat w).driverCount) : decodeControlWord w = .error .twoDrivers := by
  rw [decodeControlWord, if_neg (Nat.not_le.mpr hbits), if_pos hdrivers]

/-- Settles O56: one equation for each branch of the decoder; the converse for the first is what a decoded word meets. -/
theorem wellFormedControlWords : Obligations.WellFormedControlWords := by
  refine fun w => ⟨fun c => ⟨fun hc => ?_, ?_⟩, decodeControlWord_of_ge, decodeControlWord_of_two_le⟩
  · obtain ⟨hbits, rfl, hdrivers⟩ := decodeControlWord_ok hc
    exact ⟨hbits, hdrivers, rfl⟩
  · rintro ⟨hbits, hdrivers, rfl⟩
    exact decodeControlWord_of_wf hbits hdrivers

/-- The flags of a control word as a boolean vector: `HLT`, bit 17, first. -/
def lineVector (c : ControlWord) : List Bool :=
  [c.hlt, c.oi, c.co, c.ci, c.ce, c.m3, c.m2, c.m1, c.eo, c.mi, c.ro, c.ri, c.io, c.ii, c.bo, c.bi, c.ao, c.ai]

theorem toNat_eq_toInt (c : ControlWord) : c.toNat = toInt (lineVector c) := by
  simp only [ControlWord.toNat, lineVector, toInt, List.length_cons, List.length_nil]
  omega

theorem lineVector_ofNat (w : Nat) : lineVector (ControlWord.ofNat w) = fromInt w 18 := by
  simp only [lineVector, ControlWord.ofNat, fromInt, testBit_eq_decide_int]

/-- The lines that the integer of a vector of lines names are those of the vector. -/
theorem ofNat_toInt_lineVector (c : ControlWord) : ControlWord.ofNat (toInt (lineVector c)) = c := by
  have h (i : Nat) (hi : i < 18) : (toInt (lineVector c)).testBit (17 - i) = (lineVector c).getD i false :=
    testBit_toInt hi
  obtain ⟨ai, ao, bi, bo, ii, io, ri, ro, mi, eo, m1, m2, m3, ce, ci, co, oi, hlt⟩ := c
  rw [ControlWord.ofNat, ControlWord.mk.injEq]
  exact ⟨h 17 (by decide), h 16 (by decide), h 15 (by decide), h 14 (by decide), h 13 (by decide), h 12 (by decide),
    h 11 (by decide), h 10 (by decide), h 9 (by decide), h 8 (by decide), h 7 (by decide), h 6 (by decide),
    h 5 (by decide), h 4 (by decide), h 3 (by decide), h 2 (by decide), h 1 (by decide), h 0 (by decide)⟩

/-- Settles O55: the number of a set is the integer of its vector of flags, and vectors and integers are inverse. -/
theorem controlWordNumberingIsFaithful : Obligations.ControlWordNumberingIsFaithful := by
  refine ⟨fun w hw => ?_, fun c => ?_⟩ <;> rw [toNat_eq_toInt]
  · rw [lineVector_ofNat]
    refine Int.ofNat.inj ((toInt_fromInt w 18).trans ?_)
    exact Int.emod_eq_of_lt (Int.natCast_nonneg w) (Int.ofNat_lt.mpr hw)
  · exact ⟨toInt_lt (lineVector c), ofNat_toInt_lineVector c⟩

/-! ## The rows of `REF` (spec/30 R70 to R72, spec/45 R215) -/

/-- The opcode and the operand of a row of `REF`. -/
def refRow : Instr → Option (Nat × Nat)
  | .nop n => some (0, n)
  | .lda n => some (1, n)
  | .add n => some (2, n)
  | .sub n => some (3, n)
  | .sta n => some (4, n)
  | .ldi n => some (5, n)
  | .jmp n => some (6, n)
  | .and n => some (7, n)
  | .or n => some (8, n)
  | .xor n => some (9, n)
  | .tba n => some (10, n)
  | .undefB n => some (11, n)
  | .undefC n => some (12, n)
  | .undefD n => some (13, n)
  | .out n => some (14, n)
  | .hlt n => some (15, n)
  | _ => none

section RefRow
variable {i : Instr} {opcode operand : Nat}

theorem encodeAt_of_refRow (hi : refRow i = some (opcode, operand)) (h : Nat) :
    encodeAt h i = (.instruction, opcode * 2 ^ h + operand) := by
  cases i <;> cases hi <;> rfl

theorem wfAt_of_refRow (hi : refRow i = some (opcode, operand)) (h : Nat) :
    i.wfAt h = decide (operand < 2 ^ h) := by
  cases i <;> cases hi <;> rfl

theorem opcode_lt_of_refRow (hi : refRow i = some (opcode, operand)) : opcode < 16 := by
  cases i <;> cases hi <;> decide

/-- The row of `REF` with an opcode and an operand runs one EXECUTE tick of the entry `REF` has for the opcode. -/
theorem exec_of_refRow (hi : refRow i = some (opcode, operand)) (s : State) :
    exec i s = executeRow opcode operand (refMicrocode.lookup opcode) s := by
  cases i <;> cases hi <;> rfl

theorem decodeWord_of_refRow (hi : refRow i = some (opcode, operand)) {h w : Nat} (hopcode : w / 2 ^ h = opcode)
    (hoperand : w % 2 ^ h = operand) : decodeWord h w = .ok i := by
  rw [decodeWord, hopcode, hoperand]
  cases i <;> cases hi <;> rfl

end RefRow

theorem exists_refRow_of_instruction {i : Instr} {h : Nat} (hi : (encodeAt h i).1 = .instruction) :
    ∃ opcode operand, refRow i = some (opcode, operand) := by
  cases hrow : refRow i with
  | some row => exact ⟨row.1, row.2, rfl⟩
  | none => cases i <;> cases hrow <;> cases hi

theorem refRow_of_decodeWord {h w : Nat} {i : Instr} (hi : decodeWord h w = .ok i) :
    refRow i = some (w / 2 ^ h, w % 2 ^ h) := by
  unfold decodeWord at hi
  split at hi
  all_goals cases hi
  all_goals
    rename_i hopcode
    rw [hopcode]
    rfl

theorem exists_decodeWord_of_lt {h w : Nat} (hw : w / 2 ^ h < 16) : ∃ i, decodeWord h w = .ok i := by
  unfold decodeWord
  generalize w / 2 ^ h = opcode at hw
  match opcode, hw with
  | 0, _ | 1, _ | 2, _ | 3, _ | 4, _ | 5, _ | 6, _ | 7, _ | 8, _ | 9, _ | 10, _ | 11, _ | 12, _ | 13, _ | 14, _ | 15, _ =>
    exact ⟨_, rfl⟩
  | k + 16, hk => omega

/-- Settles O53: the row is its opcode, below 16, and its operand, below `2^H`; these are the two halves of its word. -/
theorem decodeOfEncodeAtEveryWidth : Obligations.DecodeOfEncodeAtEveryWidth := by
  intro h i hh hwf hformat
  obtain ⟨opcode, operand, hi⟩ := exists_refRow_of_instruction hformat
  have hoperand : operand < 2 ^ h := by simpa [wfAt_of_refRow hi] using hwf
  have hopcode : opcode < 2 ^ h :=
    Nat.lt_of_lt_of_le (opcode_lt_of_refRow hi) (Nat.pow_le_pow_right Nat.two_pos hh)
  rw [encodeAt_of_refRow hi]
  constructor
  · calc opcode * 2 ^ h + operand < opcode * 2 ^ h + 2 ^ h := Nat.add_lt_add_left hoperand _
      _ = (opcode + 1) * 2 ^ h := (Nat.succ_mul _ _).symm
      _ ≤ 2 ^ h * 2 ^ h := Nat.mul_le_mul_right _ hopcode
      _ = 2 ^ (2 * h) := by rw [← Nat.pow_add, Nat.two_mul]
  · refine decodeWord_of_refRow hi ?_ ?_
    · rw [Nat.add_comm, Nat.add_mul_div_right _ _ (Nat.two_pow_pos h), Nat.div_eq_of_lt hoperand, Nat.zero_add]
    · rw [Nat.add_comm, Nat.add_mul_mod_self_right, Nat.mod_eq_of_lt hoperand]

/-- Settles O54: a word below 256 has an opcode below 16, so it decodes to a row, whose word it is; a second row with that
word would be decoded from it as well. -/
theorem everyWordDecodes : Obligations.EveryWordDecodes := by
  intro w hw
  obtain ⟨i, hi⟩ := exists_decodeWord_of_lt (h := 4) (w := w) (by omega)
  have hrow := refRow_of_decodeWord hi
  have hword : encode i = (.instruction, w) := by
    rw [encode, encodeAt_of_refRow hrow, Nat.div_add_mod']
  refine ⟨i, ?_, hword, hi, fun j hj hencode => ?_⟩
  · rw [Instr.wf, wfAt_of_refRow hrow, decide_eq_true_eq]
    exact Nat.mod_lt _ (Nat.two_pow_pos 4)
  · have hformat : (encodeAt 4 j).1 = .instruction := congrArg Prod.fst hencode
    have hnumber : (encodeAt 4 j).2 = w := congrArg Prod.snd hencode
    obtain ⟨-, hdecode⟩ := decodeOfEncodeAtEveryWidth 4 j (Nat.le_refl 4) hj hformat
    rw [hnumber, decodeAt, hi] at hdecode
    exact (Except.ok.inj hdecode).symm

/-- Settles O58: the words are closed, and the decoders compute on them. -/
theorem decodingOfWrittenOutWords : Obligations.DecodingOfWrittenOutWords :=
  ⟨rfl, rfl, rfl, rfl, rfl, rfl, rfl⟩

end Sys2Proof.Machine
end

section
/-! What a step can answer (spec/40 R97, spec/44 R186, spec/60 R245): the tick over the whole table, what the sequencer can
choose, and, of each of the three outcomes, the condition under which a step gives it. -/
namespace Sys2Proof.Machine

variable {n : Nat}

/-! ## The tick as the spec writes it -/

/-- Settles O26: a halted machine returns at entry in both; a running one follows the sequencer's choice in both. -/
theorem stepIsTheTick : Obligations.StepIsTheTick := by
  intro s
  cases hhalt : s.core.halt with
  | true => rw [step_of_halt hhalt, CoreState.tick, if_pos hhalt]; rfl
  | false => rw [step_of_not_halt hhalt, CoreState.tick, if_neg (ne_true_of_eq_false hhalt)]

/-! ## What the sequencer can choose (spec/44 R186 to R191, R196) -/

/-- The opcode in `ir` has the micro-step `w` at index `k` of a list of length `len`. -/
def MicroStepAt (table : List (Nat × List Nat)) (ir : Word n) (k len w : Nat) : Prop :=
  ∃ l, table.lookup (hiHalf ir) = some l ∧ l[k]? = some w ∧ l.length = len

/-- The opcode in `ir` has a non-empty list that ends before index `k`. -/
def PastListEnd (table : List (Nat × List Nat)) (ir : Word n) (k : Nat) : Prop :=
  ∃ l, table.lookup (hiHalf ir) = some l ∧ l ≠ [] ∧ l.length ≤ k

/-- LOOKUP or a skip-ahead, FETCH, a micro-step of the opcode's list, or an index past the list's end. -/
theorem seq_cases (upc : Nat) (ir : Word n) (table : List (Nat × List Nat)) :
    seq upc ir table = .asserts lookupWord 1 ∨
    (upc = 1 ∧ seq upc ir table = .asserts fetchWord 2) ∨
    (∃ k len w, upc = k + 2 ∧ MicroStepAt table ir k len w ∧
      seq upc ir table = .asserts w (if k + 1 = len then 0 else k + 3)) ∨
    (∃ k, upc = k + 2 ∧ PastListEnd table ir k ∧ seq upc ir table = .pastEnd) := by
  match upc with
  | 0 => exact .inl rfl
  | 1 => exact .inr (.inl ⟨rfl, rfl⟩)
  | k + 2 =>
    obtain ⟨-, hseq⟩ | ⟨l, w, hl, hw, hseq⟩ | ⟨l, hl, hne, hlen, hseq⟩ :=
      executeEntry_cases (table.lookup (hiHalf ir)) k
    · exact .inl hseq
    · exact .inr (.inr (.inl ⟨k, l.length, w, rfl, ⟨l, hl, hw, rfl⟩, hseq⟩))
    · exact .inr (.inr (.inr ⟨k, rfl, ⟨l, hl, hne, hlen⟩, hseq⟩))

theorem seq_of_microStepAt {table : List (Nat × List Nat)} {ir : Word n} {k len w : Nat}
    (h : MicroStepAt table ir k len w) :
    seq (k + 2) ir table = .asserts w (if k + 1 = len then 0 else k + 3) := by
  obtain ⟨l, hl, hw, rfl⟩ := h
  rw [seq, hl, executeEntry_of_getElem? hw]

theorem seq_of_pastListEnd {table : List (Nat × List Nat)} {ir : Word n} {k : Nat} (h : PastListEnd table ir k) :
    seq (k + 2) ir table = .pastEnd := by
  obtain ⟨l, hl, hne, hlen⟩ := h
  rw [seq, hl]
  cases l with
  | nil => exact absurd rfl hne
  | cons w rest => simp only [executeEntry, List.getElem?_eq_none hlen]

/-! ## The three outcomes of a step -/

/-- A running machine that goes on did so under a well-formed word that the sequencer chose. -/
theorem step_eq_next_of_not_halt {s t : State} (hrun : s.core.halt = false) (h : step s = .next t) :
    ∃ w u c, seq s.core.upc s.core.ir s.cfg.microcode = .asserts w u ∧ decodeControlWord w = .ok c ∧
      t = s.setCore ((s.core.setUpc u).runWord s.cfg.aluModeMap c) := by
  rw [step_of_not_halt hrun] at h
  obtain ⟨m, hm, rfl⟩ := State.withOutcome_eq_next h
  obtain ⟨w, u, c, hseq, hc, rfl⟩ := CoreState.follow_eq_next hm
  exact ⟨w, u, c, hseq, hc, rfl⟩

theorem State.withOutcome_eq_fault_iff {s : State} {o : Host.Outcome (CoreState s.width) Fault Refusal} {f : Fault} :
    s.withOutcome o = .fault f ↔ o = .fault f := by
  cases o <;> simp

theorem State.withOutcome_eq_refused_iff {s : State} {o : Host.Outcome (CoreState s.width) Fault Refusal}
    {r : Refusal} : s.withOutcome o = .refused r ↔ o = .refused r := by
  cases o <;> simp

theorem CoreState.follow_eq_fault_iff {map : List (Nat × AluOp)} {r : SeqResult} {m : CoreState n} {f : Fault} :
    m.follow map r = .fault f ↔ r = .pastEnd ∧ f = .microIndexPastEnd := by
  cases r with
  | asserts w u => simp [CoreState.follow, CoreState.assertWord_ne_fault]
  | pastEnd => simp [CoreState.follow]

/-- The defect of a control word, as the refusal of a tick under it (spec/30 R74, D7, D21). -/
def IllFormedAs (w : Nat) (r : Refusal) : Prop :=
  2 ^ 18 ≤ w ∧ r = .unnamedLine ∨ w < 2 ^ 18 ∧ 2 ≤ (ControlWord.ofNat w).driverCount ∧ r = .busConflict

theorem CoreState.assertWord_eq_refused_iff {map : List (Nat × AluOp)} {w : Nat} {m : CoreState n} {r : Refusal} :
    m.assertWord map w = .refused r ↔ IllFormedAs w r := by
  unfold CoreState.assertWord IllFormedAs
  obtain hbits | hbits := Nat.lt_or_ge w (2 ^ 18)
  · obtain hdrivers | hdrivers := Nat.lt_or_ge (ControlWord.ofNat w).driverCount 2
    · rw [decodeControlWord_of_wf hbits (Nat.le_of_lt_succ hdrivers)]
      simp [-Nat.reducePow, Nat.not_le.mpr hbits, Nat.not_le.mpr hdrivers]
    · rw [decodeControlWord_of_two_le hbits hdrivers]
      simp [-Nat.reducePow, Nat.not_le.mpr hbits, hbits, hdrivers, eq_comm (a := r)]
  · rw [decodeControlWord_of_ge hbits]
    simp [-Nat.reducePow, Nat.not_lt.mpr hbits, hbits, eq_comm (a := r)]

theorem CoreState.follow_eq_refused_iff {map : List (Nat × AluOp)} {q : SeqResult} {m : CoreState n} {r : Refusal} :
    m.follow map q = .refused r ↔ ∃ w u, q = .asserts w u ∧ IllFormedAs w r := by
  cases q with
  | asserts w u => simp [CoreState.follow, CoreState.assertWord_eq_refused_iff]
  | pastEnd => simp [CoreState.follow]

theorem not_illFormedAs_of_ok {w : Nat} {c : ControlWord} (h : decodeControlWord w = .ok c) (r : Refusal) :
    ¬ IllFormedAs w r := by
  obtain ⟨hbits, rfl, hdrivers⟩ := decodeControlWord_ok h
  rintro (⟨hge, -⟩ | ⟨-, htwo, -⟩) <;> omega

theorem step_ne_fault_of_halt {s : State} (h : s.core.halt = true) (f : Fault) : step s ≠ .fault f := by
  simp [step_of_halt h]

theorem step_ne_refused_of_halt {s : State} (h : s.core.halt = true) (r : Refusal) : step s ≠ .refused r := by
  simp [step_of_halt h]

theorem step_eq_fault_iff {s : State} {f : Fault} :
    step s = .fault f ↔ s.core.halt = false ∧
      ∃ k, s.core.upc = k + 2 ∧ PastListEnd s.cfg.microcode s.core.ir k ∧ f = .microIndexPastEnd := by
  cases hhalt : s.core.halt with
  | true => simp [step_ne_fault_of_halt hhalt]
  | false =>
    rw [step_of_not_halt hhalt, State.withOutcome_eq_fault_iff, CoreState.follow_eq_fault_iff]
    constructor
    · rintro ⟨hpast, hf⟩
      obtain hseq | ⟨-, hseq⟩ | ⟨_, _, _, -, -, hseq⟩ | ⟨k, hupc, hend, -⟩ :=
        seq_cases s.core.upc s.core.ir s.cfg.microcode
      case inr.inr.inr => exact ⟨rfl, k, hupc, hend, hf⟩
      all_goals
        rw [hpast] at hseq
        cases hseq
    · rintro ⟨-, k, hupc, hend, hf⟩
      exact ⟨hupc ▸ seq_of_pastListEnd hend, hf⟩

theorem step_eq_refused_iff {s : State} {r : Refusal} :
    step s = .refused r ↔ s.core.halt = false ∧
      ∃ k len w, s.core.upc = k + 2 ∧ MicroStepAt s.cfg.microcode s.core.ir k len w ∧ IllFormedAs w r := by
  cases hhalt : s.core.halt with
  | true => simp [step_ne_refused_of_halt hhalt]
  | false =>
    rw [step_of_not_halt hhalt, State.withOutcome_eq_refused_iff, CoreState.follow_eq_refused_iff]
    constructor
    · rintro ⟨w, u, hasserts, hill⟩
      obtain hseq | ⟨-, hseq⟩ | ⟨k, len, w', hupc, hw, hseq⟩ | ⟨k, -, -, hseq⟩ :=
        seq_cases s.core.upc s.core.ir s.cfg.microcode
      all_goals
        rw [hasserts] at hseq
        cases hseq
      · exact absurd hill (not_illFormedAs_of_ok decodeControlWord_lookupWord r)
      · exact absurd hill (not_illFormedAs_of_ok decodeControlWord_fetchWord r)
      · exact ⟨rfl, k, len, w, hupc, hw, hill⟩
    · rintro ⟨-, k, len, w, hupc, hw, hill⟩
      exact ⟨w, _, hupc ▸ seq_of_microStepAt hw, hill⟩

/-- Settles O30: the sequencer alone gives the fault, and of the words it can choose only a micro-step of the table can be
ill formed. -/
theorem tickStopsExactlyThere : Obligations.TickStopsExactlyThere := by
  intro s
  constructor
  · intro f
    rw [step_eq_fault_iff]
    constructor
    · rintro ⟨hrun, k, hupc, ⟨l, hl, hne, hlen⟩, hf⟩
      exact ⟨hrun, l, k, hupc, hl, hne, hlen, hf⟩
    · rintro ⟨hrun, l, k, hupc, hl, hne, hlen, hf⟩
      exact ⟨hrun, k, hupc, ⟨l, hl, hne, hlen⟩, hf⟩
  · intro r
    rw [step_eq_refused_iff]
    constructor
    · rintro ⟨hrun, k, len, w, hupc, ⟨l, hl, hw, -⟩, hill⟩
      exact ⟨hrun, l, k, w, hupc, hl, hw, hill⟩
    · rintro ⟨hrun, l, k, w, hupc, hl, hw, hill⟩
      exact ⟨hrun, k, l.length, w, hupc, ⟨l, hl, hw, rfl⟩, hill⟩

end Sys2Proof.Machine
end

section
/-! The invariant of a built machine (Safety.lean): its part that no tick can touch, its part on the machine's own tuple, and
that under it a step goes on and keeps it. -/
namespace Sys2Proof.Machine

variable {n : Nat}

/-! ## The premises of spec/30 R80 on a table, as facts about its lists -/

theorem microListOk_of_lookup {table : List (Nat × List Nat)} {opcode : Nat} {l : List Nat}
    (htable : microcodeOk table = true) (hl : table.lookup opcode = some l) : microListOk l = true := by
  obtain ⟨before, after, rfl, -⟩ := List.lookup_eq_some_iff.mp hl
  exact List.all_eq_true.mp htable (opcode, l) (by simp)

theorem decodeControlWord_ok_of_mem {l : List Nat} {w : Nat} (hl : wordsWellFormed l = true) (hw : w ∈ l) :
    ∃ c, decodeControlWord w = .ok c := by
  induction l with
  | nil => cases hw
  | cons v rest ih =>
    rw [wordsWellFormed, Bool.and_eq_true] at hl
    obtain ⟨hv, hrest⟩ := hl
    obtain rfl | hw := List.mem_cons.mp hw
    · cases hc : decodeControlWord w with
      | ok c => exact ⟨c, rfl⟩
      | error e => simp [hc] at hv
    · exact ih hrest hw

/-- No micro-step but the last writes `IR` (spec/30 R80 (d)). -/
theorem ii_false_of_not_last {l : List Nat} {k w : Nat} (hl : assertsIiEarly l = false) (hw : l[k]? = some w)
    (hk : k + 1 < l.length) : (ControlWord.ofNat w).ii = false := by
  induction l generalizing k with
  | nil => cases hw
  | cons v rest ih =>
    cases rest with
    | nil => simp at hk
    | cons x rest =>
      rw [assertsIiEarly, Bool.or_eq_false_iff] at hl
      obtain ⟨hv, hrest⟩ := hl
      cases k with
      | zero => cases hw; exact hv
      | succ k => exact ih hrest hw (Nat.lt_of_succ_lt_succ hk)

theorem microListOk_iff {l : List Nat} :
    microListOk l = true ↔ wordsWellFormed l = true ∧ assertsIiEarly l = false := by
  simp [microListOk]

/-- A micro-step of a list that meets R80 is well formed, and writes `IR` only if it is the last. -/
theorem decodes_of_microListOk {l : List Nat} {k w : Nat} (hl : microListOk l = true) (hw : l[k]? = some w) :
    ∃ c, decodeControlWord w = .ok c ∧ (k + 1 ≠ l.length → c.ii = false) := by
  obtain ⟨hwords, hii⟩ := microListOk_iff.mp hl
  obtain ⟨c, hc⟩ := decodeControlWord_ok_of_mem hwords (List.mem_of_getElem? hw)
  obtain ⟨-, rfl, -⟩ := decodeControlWord_ok hc
  have hk : k < l.length := (List.getElem?_eq_some_iff.mp hw).1
  exact ⟨_, hc, fun hlast => ii_false_of_not_last hii hw (by omega)⟩

theorem MicroStepAt.decodes {table : List (Nat × List Nat)} {ir : Word n} {k len w : Nat}
    (htable : microcodeOk table = true) (h : MicroStepAt table ir k len w) :
    ∃ c, decodeControlWord w = .ok c ∧ (k + 1 ≠ len → c.ii = false) := by
  obtain ⟨l, hl, hw, rfl⟩ := h
  exact decodes_of_microListOk (microListOk_of_lookup htable hl) hw

/-! ## The invariant, taken apart -/

/-- The part of the invariant that is about the width, the configuration and the tick source. -/
structure State.FixedOk (s : State) : Prop where
  width : 0 < s.width ∧ s.width % 2 = 0
  unique : opcodesUnique s.cfg.microcode = true
  table : microcodeOk s.cfg.microcode = true
  modes : aluModeMapOk s.cfg.aluModeMap = true
  interval : s.cfg.intervalMin ≤ s.clock.interval ∧ s.clock.interval ≤ s.cfg.intervalMax
  idle : s.clock.busy = false

/-- The part of the invariant that is about the machine's own tuple. -/
structure CoreState.Ok (table : List (Nat × List Nat)) (m : CoreState n) : Prop where
  mem : memWf m.mem = true
  pointer : pointerInRange table m = true
  drivers : m.cw.driverCount ≤ 1
  out : outHoldsLast m.out = true

theorem State.inv_iff {s : State} : s.inv = true ↔ s.FixedOk ∧ s.core.Ok s.cfg.microcode := by
  simp only [State.inv, Bool.and_eq_true, decide_eq_true_eq, Bool.not_eq_true']
  constructor
  · rintro ⟨⟨⟨⟨⟨⟨⟨⟨⟨hwidth, hunique⟩, htable⟩, hmodes⟩, hmem⟩, hpointer⟩, hdrivers⟩, hout⟩, hinterval⟩, hidle⟩
    exact ⟨⟨hwidth, hunique, htable, hmodes, hinterval, hidle⟩, hmem, hpointer, hdrivers, hout⟩
  · rintro ⟨⟨hwidth, hunique, htable, hmodes, hinterval, hidle⟩, hmem, hpointer, hdrivers, hout⟩
    exact ⟨⟨⟨⟨⟨⟨⟨⟨⟨hwidth, hunique⟩, htable⟩, hmodes⟩, hmem⟩, hpointer⟩, hdrivers⟩, hout⟩, hinterval⟩, hidle⟩

theorem State.FixedOk.setCore {s : State} (h : s.FixedOk) (m : CoreState s.width) : (s.setCore m).FixedOk :=
  ⟨h.width, h.unique, h.table, h.modes, h.interval, h.idle⟩

/-- The pointer is in range exactly if its index is past the end of no list. -/
theorem pointerInRange_iff {table : List (Nat × List Nat)} {m : CoreState n} :
    pointerInRange table m = true ↔ ∀ k, m.upc = k + 2 → ¬ PastListEnd table m.ir k := by
  unfold pointerInRange PastListEnd
  match m.upc with
  | 0 => simp
  | 1 => simp
  | k + 2 =>
    match table.lookup (hiHalf m.ir) with
    | none => simp
    | some [] => simp
    | some (w :: rest) => simp

/-! ## Every step keeps it -/

theorem outHoldsLast_emit (o : Option (OutReg n)) (v : Word n) :
    outHoldsLast (o.map fun r => r.emit v) = true := by
  cases o <;> simp [outHoldsLast, OutReg.emit]

/-- Whatever the sequencer chooses of a table that meets R80 leaves the pointer in range: at 0 or 1; at 2, where no list is
past its end; or one up in the same list, since only the last micro-step may write `IR`. -/
theorem pointerInRange_runWord {table : List (Nat × List Nat)} {map : List (Nat × AluOp)} {m : CoreState n} {w u : Nat}
    {c : ControlWord} (htable : microcodeOk table = true) (hseq : seq m.upc m.ir table = .asserts w u)
    (hc : decodeControlWord w = .ok c) : pointerInRange table ((m.setUpc u).runWord map c) = true := by
  simp only [pointerInRange_iff, CoreState.runWord_upc, CoreState.setUpc_upc]
  rintro k rfl ⟨l', hl', hne, hlen⟩
  obtain h | ⟨-, h⟩ | ⟨j, len, v, -, hv, h⟩ | ⟨j, -, -, h⟩ := seq_cases m.upc m.ir table <;> rw [hseq] at h
  · injection h with _ hu
    omega
  · injection h with _ hu
    have : l' = [] := List.length_eq_zero_iff.mp (by omega)
    exact hne this
  · injection h with hw hu
    subst hw
    split at hu
    · omega
    · rename_i hlast
      obtain ⟨c', hc', hii⟩ := hv.decodes htable
      obtain ⟨l, hl, hget, rfl⟩ := hv
      obtain rfl : c' = c := by simpa [hc'] using hc
      have hj : j < l.length := (List.getElem?_eq_some_iff.mp hget).1
      have hsame : l = l' := by simpa [hii hlast, hl] using hl'
      subst hsame
      omega
  · cases h

theorem CoreState.Ok.runWord {table : List (Nat × List Nat)} {map : List (Nat × AluOp)} {m : CoreState n} {w u : Nat}
    {c : ControlWord} (h : m.Ok table) (htable : microcodeOk table = true)
    (hseq : seq m.upc m.ir table = .asserts w u) (hc : decodeControlWord w = .ok c) :
    ((m.setUpc u).runWord map c).Ok table where
  mem := by
    rw [CoreState.runWord_mem]
    split
    · exact memWf_memWrite h.mem (BitVec.isLt _)
    · exact h.mem
  pointer := pointerInRange_runWord htable hseq hc
  drivers := by
    obtain ⟨-, -, hdrivers⟩ := decodeControlWord_ok hc
    rw [CoreState.runWord_cw]
    exact hdrivers
  out := by
    rw [CoreState.runWord_out]
    split
    · exact outHoldsLast_emit _ _
    · exact h.out

/-- Settles O45: a step changes the machine's own tuple only, and that by the bands of a well-formed word the sequencer
chose, each of which keeps its clause. -/
theorem stepKeepsInvariant : Obligations.StepKeepsInvariant := by
  intro s t hinv h
  cases hhalt : s.core.halt with
  | true =>
    obtain rfl : s = t := by simpa [step_of_halt hhalt] using h
    exact hinv
  | false =>
    obtain ⟨hfixed, hcore⟩ := State.inv_iff.mp hinv
    obtain ⟨w, u, c, hseq, hc, rfl⟩ := step_eq_next_of_not_halt hhalt h
    exact State.inv_iff.mpr ⟨hfixed.setCore _, hcore.runWord hfixed.table hseq hc⟩

/-! ## No step stops -/

/-- Under the invariant neither stop's condition can hold. -/
theorem safeStep_of_inv {s : State} (hinv : s.inv = true) : safeStep s := by
  obtain ⟨hfixed, hcore⟩ := State.inv_iff.mp hinv
  cases h : step s with
  | next t => exact ⟨t, h⟩
  | fault f =>
    obtain ⟨-, k, hupc, hend, -⟩ := step_eq_fault_iff.mp h
    exact absurd hend (pointerInRange_iff.mp hcore.pointer k hupc)
  | refused r =>
    obtain ⟨-, k, len, w, -, hw, hill⟩ := step_eq_refused_iff.mp h
    obtain ⟨c, hc, -⟩ := hw.decodes hfixed.table
    exact absurd hill (not_illFormedAs_of_ok hc r)

/-- Settles O46: by induction on the number of ticks, each of which goes on and keeps the invariant. -/
theorem builtMachineNeverStops : Obligations.BuiltMachineNeverStops := by
  intro s k hinv
  induction k generalizing s with
  | zero => exact ⟨s, rfl, hinv, safeStep_of_inv hinv⟩
  | succ k ih =>
    obtain ⟨t, ht⟩ := safeStep_of_inv hinv
    rw [ticks_succ_of_next ht]
    exact ih t (stepKeepsInvariant s t hinv ht)

/-- Settles O44: the machine at reset is one closed value, and every clause of the invariant is decidable. -/
theorem resetMeetsInvariant : Obligations.ResetMeetsInvariant := by
  unfold Obligations.ResetMeetsInvariant
  decide

end Sys2Proof.Machine
end

section
/-! The ALU's final carry and mode codes (spec/43), and the lines `EO`, `M1` to `M3`, `CE` and `OI` (spec/41, spec/43). -/
namespace Sys2Proof.Machine

variable {n : Nat}

/-! ## The final carry (spec/43 R171, R172) -/

theorem finalCarry_iff (a b : Word n) (c : Bool) :
    finalCarry a b c = true ↔ 2 ^ n ≤ a.toNat + b.toNat + c.toNat := by
  rw [finalCarry, (ripple_spec a b c n (Nat.le_refl n)).1, BitVec.carry, decide_eq_true_eq,
    Nat.mod_eq_of_lt a.isLt, Nat.mod_eq_of_lt b.isLt]

/-- Settles O39: the carry is the sum's overflow; for SUBTRACT the sum is `a + (2^N - 1 - b) + 1`. -/
theorem finalCarryMeaning : Obligations.FinalCarryMeaning := by
  intro n a b
  rw [finalCarry_iff, finalCarry_iff]
  have := b.isLt
  constructor
  · simp
  · rw [BitVec.toNat_not, Bool.toNat_true]
    omega

/-! ## The operation a mode code selects (spec/43 R166, R173) -/

theorem alu_of_lookup {map : List (Nat × AluOp)} {code : Nat} {op : AluOp} (h : map.lookup code = some op)
    (a b : Word n) : alu map code a b = aluResult op a b := by
  rw [alu, aluOpOf, h, Option.getD_some]

theorem alu_of_lookup_none {map : List (Nat × AluOp)} {code : Nat} (h : map.lookup code = none) (a b : Word n) :
    alu map code a b = a - b := by
  rw [alu, aluOpOf, h, Option.getD_none, aluResult_sub]

section ReferenceModes
variable (a b : Word n)

@[simp] theorem alu_refAluModeMap_and : alu refAluModeMap 0 a b = a &&& b := alu_of_lookup (op := .and) rfl a b
@[simp] theorem alu_refAluModeMap_or : alu refAluModeMap 1 a b = a ||| b := alu_of_lookup (op := .or) rfl a b
@[simp] theorem alu_refAluModeMap_xor : alu refAluModeMap 2 a b = a ^^^ b := alu_of_lookup (op := .xor) rfl a b
@[simp] theorem alu_refAluModeMap_add : alu refAluModeMap 3 a b = a + b :=
  (alu_of_lookup (op := .add) rfl a b).trans (aluResult_add a b)
@[simp] theorem alu_refAluModeMap_sub : alu refAluModeMap 4 a b = a - b :=
  (alu_of_lookup (op := .sub) rfl a b).trans (aluResult_sub a b)

end ReferenceModes

/-- Settles O41: the default is SUBTRACT, and the reference map has no code above 4. -/
theorem unmappedModeCodeIsSubtract : Obligations.UnmappedModeCodeIsSubtract :=
  ⟨fun _ _ _ a b h => alu_of_lookup_none h a b,
    fun _ a b => ⟨alu_refAluModeMap_and a b, alu_refAluModeMap_or a b, alu_refAluModeMap_xor a b,
      alu_refAluModeMap_add a b, alu_refAluModeMap_sub a b, alu_of_lookup_none rfl a b, alu_of_lookup_none rfl a b,
      alu_of_lookup_none rfl a b⟩⟩

/-! ## The lines -/

section LineRows
variable (s : State)

@[simp] theorem exec_eo : exec .eo s = .next (s.setCore (s.core.driveAlu s.cfg.aluModeMap)) := rfl
@[simp] theorem exec_m1 : exec .m1 s = .next s := rfl
@[simp] theorem exec_m2 : exec .m2 s = .next s := rfl
@[simp] theorem exec_m3 : exec .m3 s = .next s := rfl
@[simp] theorem exec_ce : exec .ce s = .next (s.setCore s.core.incrementPc) := rfl
@[simp] theorem exec_oi : exec .oi s = .next (s.setCore s.core.captureOut) := rfl

end LineRows

/-- Settles O6: `EO` writes the bus alone; the ripple loops behind ADD and SUBTRACT are `+` and `-`. -/
theorem aluLines : Obligations.AluLines := by
  refine fun s => ⟨?_, exec_m1 s, exec_m2 s, exec_m3 s⟩
  rw [exec_eo, CoreState.driveAlu, alu, modeCode]
  cases aluOpOf s.cfg.aluModeMap (s.core.cw.m1.toNat + 2 * s.core.cw.m2.toNat + 4 * s.core.cw.m3.toNat) with
  | and => rw [aluResult_and]; rfl
  | or => rw [aluResult_or]; rfl
  | xor => rw [aluResult_xor]; rfl
  | add => rw [aluResult_add]; rfl
  | sub => rw [aluResult_sub]; rfl

/-- One more than a word, as a natural: it wraps at the top address (D5). -/
theorem toNat_add_one (v : Word n) : (v + 1).toNat = (v.toNat + 1) % 2 ^ n := by
  simp [BitVec.toNat_add]

/-- Settles O3: `CE` writes the counter alone, by addition of words. -/
theorem counterIncrement : Obligations.CounterIncrement := fun s =>
  ⟨s.core.pc + 1, exec_ce s, toNat_add_one s.core.pc⟩

/-- Settles O4: with its flag set `OI` maps `emit` over the register, fitted or not; with it clear it does nothing. -/
theorem outputLine : Obligations.OutputLine := by
  intro s
  rw [exec_oi, CoreState.captureOut]
  refine ⟨fun o hflag hout => ?_, fun hflag hout => ?_, fun hflag => ?_⟩
  · rw [if_pos hflag, hout]
    rfl
  · rw [if_pos hflag, hout, Option.map_none, ← hout]
    rfl
  · rw [if_neg (ne_true_of_eq_false hflag)]
    rfl

end Sys2Proof.Machine
end

section
/-! One tick under one control word (spec/40 sections 1, 3 and 4): what a single driver puts on the bus, what each capture
takes, what a word without an element's line leaves, and that the order inside a band cannot be seen. -/
namespace Sys2Proof.Machine

variable {n : Nat}

/-! ## The bus under a word with at most one driver (spec/40 R91, R92) -/

/-- At most one driver: no two of the six are asserted together. -/
theorem driverCount_le_one_iff (w : ControlWord) :
    w.driverCount ≤ 1 ↔ [w.ao, w.bo, w.io, w.co, w.ro, w.eo].Pairwise (fun x y => x = true → y = false) := by
  unfold ControlWord.driverCount
  generalize w.ao = ao, w.bo = bo, w.io = io, w.co = co, w.ro = ro, w.eo = eo
  revert ao bo io co ro eo
  decide

section Bus
variable {map : List (Nat × AluOp)} {w : ControlWord} {m : CoreState n}

theorem CoreState.busAfter_of_eo (h : w.eo = true) : m.busAfter map w = alu map (modeCode w) m.a m.b := by
  simp [CoreState.busAfter, h]

theorem CoreState.busAfter_of_no_driver (h : w.driverCount = 0) : m.busAfter map w = m.bus := by
  simp [ControlWord.driverCount] at h
  simp [CoreState.busAfter, h]

variable (hone : w.driverCount ≤ 1)
include hone

theorem CoreState.busAfter_of_ro (h : w.ro = true) : m.busAfter map w = memRead m.mem m.mar.toNat := by
  simp [driverCount_le_one_iff, h] at hone
  simp [CoreState.busAfter, h, hone]

theorem CoreState.busAfter_of_co (h : w.co = true) : m.busAfter map w = m.pc := by
  simp [driverCount_le_one_iff, h] at hone
  simp [CoreState.busAfter, h, hone]

theorem CoreState.busAfter_of_io (h : w.io = true) : m.busAfter map w = operandWord m.ir := by
  simp [driverCount_le_one_iff, h] at hone
  simp [CoreState.busAfter, h, hone]

theorem CoreState.busAfter_of_bo (h : w.bo = true) : m.busAfter map w = m.b := by
  simp [driverCount_le_one_iff, h] at hone
  simp [CoreState.busAfter, h, hone]

theorem CoreState.busAfter_of_ao (h : w.ao = true) : m.busAfter map w = m.a := by
  simp [driverCount_le_one_iff, h] at hone
  simp [CoreState.busAfter, h, hone]

end Bus

/-! ## Every capture of the tick gets what is on the bus then -/

section Captures
variable {map : List (Nat × AluOp)} {w : ControlWord} {m : CoreState n}

/-- What `RI` writes: the bus, at the address that stands in `MAR` after the MID band (spec/42 R153, R155). -/
theorem CoreState.memRead_runWord_of_ri (h : w.ri = true) (a : Nat) :
    memRead (m.runWord map w).mem a =
      if a = (m.runWord map w).mar.toNat then (m.runWord map w).bus else memRead m.mem a := by
  rw [CoreState.runWord_mem, if_pos h, memRead_memWrite, CoreState.runWord_mar, CoreState.runWord_bus]

theorem CoreState.memRead_runWord_mar_of_ri (h : w.ri = true) :
    memRead (m.runWord map w).mem (m.runWord map w).mar.toNat = (m.runWord map w).bus := by
  rw [CoreState.memRead_runWord_of_ri h, if_pos rfl]

theorem CoreState.runWord_out_of_oi (h : w.oi = true) {o : OutReg n} (ho : m.out = some o) :
    (m.runWord map w).out = some (o.emit (m.runWord map w).bus) := by
  rw [CoreState.runWord_out, if_pos h, ho, Option.map_some, CoreState.runWord_bus]

end Captures

/-- Settles O32: the bus is `busAfter`, one lemma for each driver; each capture's clause is its element's closed form. -/
theorem driverReachesEveryCapture : Obligations.DriverReachesEveryCapture := by
  intro n map w m hone
  refine ⟨?ao, ?bo, ?io, ?co, ?ro, ?eo, ?none, ?ai, ?bi, ?ii, ?ci, ?mi, CoreState.memRead_runWord_mar_of_ri,
    fun h o ho => CoreState.runWord_out_of_oi h ho⟩
  all_goals
    intro h
    rw [CoreState.runWord_bus]
  case ao => exact CoreState.busAfter_of_ao hone h
  case bo => exact CoreState.busAfter_of_bo hone h
  case io => exact CoreState.busAfter_of_io hone h
  case co => exact CoreState.busAfter_of_co hone h
  case ro => exact CoreState.busAfter_of_ro hone h
  case eo => exact CoreState.busAfter_of_eo h
  case none => exact CoreState.busAfter_of_no_driver h
  case ai => rw [CoreState.runWord_a, if_pos h]
  case bi => rw [CoreState.runWord_b, if_pos h]
  case ii => rw [CoreState.runWord_ir, if_pos h]
  case ci => rw [CoreState.runWord_pc, if_pos h]
  case mi => rw [CoreState.runWord_mar, if_pos h]

/-- Settles O34: the counter's closed form, case by case, with the old value on the bus under `CO`. -/
theorem counterUnderAnyWord : Obligations.CounterUnderAnyWord := by
  intro n map w m hone
  simp only [CoreState.runWord_pc, CoreState.runWord_bus]
  refine ⟨fun hce hci => ?_, fun hce hci => ?_, fun hci => if_pos hci, CoreState.busAfter_of_co hone, fun hci hco => ?_⟩
  · rw [hci, hce, if_neg Bool.false_ne_true, if_pos rfl]
    exact toNat_add_one m.pc
  · rw [hci, hce, if_neg Bool.false_ne_true, if_neg Bool.false_ne_true]
  · rw [if_pos hci, CoreState.busAfter_of_co hone hco]

/-- Settles O35: the capture takes the bus and the bus has the register's own value, for `IR` its low half. -/
theorem sameRegisterInAndOut : Obligations.SameRegisterInAndOut := by
  intro n map w m hone
  simp only [CoreState.runWord_a, CoreState.runWord_b, CoreState.runWord_ir, CoreState.runWord_pc, CoreState.runWord_bus]
  refine ⟨fun hin hout => ?_, fun hin hout => ?_, fun hin hout => ?_, fun hin hout => ?_⟩ <;> rw [if_pos hin]
  · rw [CoreState.busAfter_of_ao hone hout]
    exact ⟨rfl, rfl⟩
  · rw [CoreState.busAfter_of_bo hone hout]
    exact ⟨rfl, rfl⟩
  · rw [CoreState.busAfter_of_io hone hout]
    exact ⟨operandWord_toNat m.ir, rfl⟩
  · rw [CoreState.busAfter_of_co hone hout]
    exact ⟨rfl, rfl⟩

/-- Settles O36: `RO` reads at the address from before the tick, `MI` takes the bus, and `RI` writes the bus at the address
after it; without `MI` that is the address read, so the word written is the one that stood there. -/
theorem addressCaptureBetweenReadAndWrite : Obligations.AddressCaptureBetweenReadAndWrite := by
  intro n map w m hone
  have hmar (hmi : w.mi = true) : (m.runWord map w).mar = (m.runWord map w).bus := by
    rw [CoreState.runWord_mar, if_pos hmi, CoreState.runWord_bus]
  have hbus (hro : w.ro = true) : (m.runWord map w).bus = memRead m.mem m.mar.toNat := by
    rw [CoreState.runWord_bus, CoreState.busAfter_of_ro hone hro]
  refine ⟨fun hro hmi => ⟨hbus hro, (hmar hmi).trans (hbus hro)⟩, fun hmi hri => ⟨hmar hmi, fun a => ?_⟩,
    fun hro hri hmi a => ?_, fun hro hri hmi => ?_⟩
  · rw [CoreState.memRead_runWord_of_ri hri, hmar hmi]
  · have hkept : (m.runWord map w).mar = m.mar := by
      rw [CoreState.runWord_mar, if_neg (ne_true_of_eq_false hmi)]
    rw [CoreState.memRead_runWord_of_ri hri, hkept, hbus hro]
    split
    · rename_i ha
      rw [ha]
    · rfl
  · have hread := CoreState.memRead_runWord_mar_of_ri (map := map) (m := m) hri
    rwa [hmar hmi, hbus hro] at hread

/-! ## What a word without an element's line leaves (spec/10 R21 to R30) -/

/-- `t` differs from `m` in elements whose lines are in the word `w` only. -/
structure CoreState.FrameUnder (w : ControlWord) (m t : CoreState n) : Prop where
  bus : w.driverCount = 0 → t.bus = m.bus
  a : w.ai = false → t.a = m.a
  b : w.bi = false → t.b = m.b
  ir : w.ii = false → t.ir = m.ir
  pc : w.ce = false → w.ci = false → t.pc = m.pc
  mar : w.mi = false → t.mar = m.mar
  mem : w.ri = false → t.mem = m.mem
  word : ∀ c, c ≠ t.mar.toNat → memRead t.mem c = memRead m.mem c
  out : w.oi = false → t.out = m.out
  halt : w.hlt = false → t.halt = m.halt

theorem CoreState.frameUnder_runWord (map : List (Nat × AluOp)) (w : ControlWord) (m : CoreState n) :
    CoreState.FrameUnder w m (m.runWord map w) where
  bus h := by rw [CoreState.runWord_bus, CoreState.busAfter_of_no_driver h]
  a h := by simp [h]
  b h := by simp [h]
  ir h := by simp [h]
  pc hce hci := by simp [hce, hci]
  mar h := by simp [h]
  mem h := by simp [h]
  word c hc := by
    cases h : w.ri with
    | true => rw [CoreState.memRead_runWord_of_ri h, if_neg hc]
    | false => rw [CoreState.runWord_mem, if_neg (ne_true_of_eq_false h)]
  out h := by simp [h]
  halt h := by simp [h]

/-- Settles O33: a running machine that goes on ran the bands of one word, which is then the word in force. -/
theorem elementsWrittenOnlyByTheirLines : Obligations.ElementsWrittenOnlyByTheirLines := by
  intro s m hrun h
  obtain ⟨w, u, c, -, -, hm⟩ := step_eq_next_of_not_halt hrun h
  obtain rfl := State.setCore_inj hm
  have hframe := CoreState.frameUnder_runWord s.cfg.aluModeMap c (s.core.setUpc u)
  rw [CoreState.runWord_cw]
  exact ⟨hframe.bus, hframe.a, hframe.b, hframe.ir, hframe.pc, hframe.mar, hframe.mem, fun _ => hframe.word, hframe.out,
    by simp [hrun]⟩

/-! ## Any order inside a band (spec/40 R99, D22) -/

/-- A line of the control word, with what its component does when the line is in the word in force. -/
structure LineAction (n : Nat) where
  line : ControlWord → Bool
  act : CoreState n → CoreState n
  act_cw : ∀ m, (act m).cw = m.cw

/-- The action as the tick invokes it, every time: it does nothing without its line (spec/40 R95). -/
def LineAction.run (p : LineAction n) (m : CoreState n) : CoreState n := if p.line m.cw then p.act m else m

theorem LineAction.run_cw (p : LineAction n) (m : CoreState n) : (p.run m).cw = m.cw := by
  unfold LineAction.run
  split
  · exact p.act_cw m
  · rfl

/-- Under the word `w` the two actions do not both act, or their effects can be exchanged. -/
def Exchange (w : ControlWord) (p q : LineAction n) : Prop :=
  p.line w = true → q.line w = true → ∀ m, p.act (q.act m) = q.act (p.act m)

theorem Exchange.run_comm {p q : LineAction n} {m : CoreState n} (h : Exchange m.cw p q) :
    p.run (q.run m) = q.run (p.run m) := by
  unfold LineAction.run
  cases hp : p.line m.cw <;> cases hq : q.line m.cw <;> simp [p.act_cw, q.act_cw, hp, hq]
  exact h hp hq m

/-- Functions that keep the word in force and commute in pairs under it give the same state in any order. -/
theorem foldl_perm_of_comm {w : ControlWord} {fs gs : List (CoreState n → CoreState n)} (hperm : fs.Perm gs)
    (hcw : ∀ f ∈ fs, ∀ m, (f m).cw = m.cw) (hcomm : fs.Pairwise fun f g => ∀ m, m.cw = w → f (g m) = g (f m))
    {m : CoreState n} (hm : m.cw = w) : fs.foldl (fun x f => f x) m = gs.foldl (fun x f => f x) m := by
  induction hperm generalizing m with
  | nil => rfl
  | cons f _ ih =>
    obtain ⟨hf, hfs⟩ := List.forall_mem_cons.mp hcw
    exact ih hfs hcomm.of_cons ((hf m).trans hm)
  | swap f g _ =>
    have hgf := List.rel_of_pairwise_cons hcomm List.mem_cons_self m hm
    rw [List.foldl_cons, List.foldl_cons, ← hgf]
    rfl
  | trans h _ ih ih' =>
    rw [ih hcw hcomm hm]
    exact ih' (fun f hf => hcw f (h.mem_iff.mpr hf))
      ((h.pairwise_iff fun hfg m hm => (hfg m hm).symm).mp hcomm) hm

/-- The actions of a band any two of which can be exchanged give the same state in any order. -/
theorem foldl_band_perm {w : ControlWord} {band : List (LineAction n)} (hpair : band.Pairwise (Exchange w))
    {fs : List (CoreState n → CoreState n)} (hperm : fs.Perm (band.map LineAction.run)) {m : CoreState n}
    (hm : m.cw = w) : fs.foldl (fun x f => f x) m = (band.map LineAction.run).foldl (fun x f => f x) m := by
  refine (foldl_perm_of_comm hperm.symm ?_ ?_ hm).symm
  · intro f hf
    obtain ⟨p, -, rfl⟩ := List.mem_map.mp hf
    exact p.run_cw
  · exact List.pairwise_map.mpr (hpair.imp fun hpq m hm => Exchange.run_comm (hm ▸ hpq))

/-- The six drives: each puts a value of its own on the bus. -/
def drives (map : List (Nat × AluOp)) : List (LineAction n) :=
  [⟨ControlWord.ao, fun m => m.setBus m.a, fun _ => rfl⟩, ⟨ControlWord.bo, fun m => m.setBus m.b, fun _ => rfl⟩,
    ⟨ControlWord.io, fun m => m.setBus (operandWord m.ir), fun _ => rfl⟩,
    ⟨ControlWord.co, fun m => m.setBus m.pc, fun _ => rfl⟩,
    ⟨ControlWord.ro, fun m => m.setBus (memRead m.mem m.mar.toNat), fun _ => rfl⟩,
    ⟨ControlWord.eo, fun m => m.setBus (alu map (modeCode m.cw) m.a m.b), fun _ => rfl⟩]

/-- The two actions of the MID band. -/
def midActions : List (LineAction n) :=
  [⟨ControlWord.mi, fun m => m.setMar m.bus, fun _ => rfl⟩, ⟨ControlWord.ce, fun m => m.setPc (m.pc + 1), fun _ => rfl⟩]

/-- The six captures. -/
def captures : List (LineAction n) :=
  [⟨ControlWord.ai, fun m => m.setA m.bus, fun _ => rfl⟩, ⟨ControlWord.bi, fun m => m.setB m.bus, fun _ => rfl⟩,
    ⟨ControlWord.ii, fun m => m.setIr m.bus, fun _ => rfl⟩,
    ⟨ControlWord.ri, fun m => m.setMem (memWrite m.mem m.mar.toNat m.bus), fun _ => rfl⟩,
    ⟨ControlWord.ci, fun m => m.setPc m.bus, fun _ => rfl⟩,
    ⟨ControlWord.oi, fun m => m.setOut (m.out.map fun o => o.emit m.bus), fun _ => rfl⟩]

/-- No two drives act under a word with at most one driver. -/
theorem drives_pairwise (map : List (Nat × AluOp)) {w : ControlWord} (hone : w.driverCount ≤ 1) :
    (drives (n := n) map).Pairwise (Exchange w) := by
  have hlines : ((drives (n := n) map).map fun p => p.line w).Pairwise (fun x y => x = true → y = false) :=
    (driverCount_le_one_iff w).mp hone
  refine (List.pairwise_map.mp hlines).imp fun hpq hp hq => ?_
  rw [hpq hp] at hq
  cases hq

/-- The address capture and the increment write different elements, and neither reads the other's. -/
theorem midActions_pairwise (w : ControlWord) : (midActions (n := n)).Pairwise (Exchange w) := by
  simp [midActions, Exchange, CoreState.setMar, CoreState.setPc]

/-- The captures write different elements, and none reads what another writes. -/
theorem captures_pairwise (w : ControlWord) : (captures (n := n)).Pairwise (Exchange w) := by
  simp [captures, Exchange, CoreState.setA, CoreState.setB, CoreState.setIr, CoreState.setMem, CoreState.setPc,
    CoreState.setOut]

/-- Settles O37: each band is the run of its list of actions, any two of which can be exchanged: of the drives at most one
acts, and the others write different elements. -/
theorem orderInsideABandUnobservable : Obligations.OrderInsideABandUnobservable := fun _ map _ hone =>
  ⟨fun _ hl => foldl_band_perm (drives_pairwise map hone) hl rfl,
    fun _ hl => foldl_band_perm (midActions_pairwise _) hl rfl,
    fun _ hl => foldl_band_perm (captures_pairwise _) hl rfl⟩

end Sys2Proof.Machine
end

section
/-! The rows of `REF`, tick by tick (spec/45; spec/44 R188 to R191, R196). -/
namespace Sys2Proof.Machine

/-! ## FETCH (spec/44 R188) -/

/-- Settles O9: FETCH asserts `RO|II|CE` and leaves the pointer at 2. -/
theorem fetchBringsWordAndAdvances : Obligations.FetchBringsWordAndAdvances := fun s =>
  congrArg s.withOutcome (CoreState.follow_roIiCe s.cfg.aluModeMap s.core 2)

/-! ## One EXECUTE tick of a row, by the entry of its opcode -/

section ExecuteRow
variable {s : State} {opcode operand : Nat}

/-- An empty or undefined opcode looks the next instruction up, at every pointer (spec/44 R190). -/
theorem executeRow_skip {entry : Option (List Nat)} (hentry : entry = none ∨ entry = some []) :
    executeRow opcode operand entry s = .next (s.setCore
      { s.core with
        ir := instrWord s.width opcode operand
        bus := s.core.pc, mar := s.core.pc, upc := 1, cw := { co := true, mi := true } }) := by
  have hseq : executeEntry entry (s.core.upc - 2) = .asserts lookupWord 1 := by
    obtain rfl | rfl := hentry <;> rfl
  rw [executeRow, hseq, CoreState.follow_coMi]
  rfl

/-- Past the end of its list a row faults (spec/44 R196, D9). -/
theorem executeRow_pastEnd {l : List Nat} (hne : l ≠ []) (hlen : 2 + l.length ≤ s.core.upc) :
    executeRow opcode operand (some l) s = .fault .microIndexPastEnd := by
  have hseq : executeEntry (some l) (s.core.upc - 2) = .pastEnd := by
    obtain ⟨w, rest, rfl⟩ := List.exists_cons_of_ne_nil hne
    simp only [executeEntry, List.getElem?_eq_none (Nat.le_sub_of_add_le' hlen)]
  rw [executeRow, hseq]
  rfl

end ExecuteRow

/-- Settles O10: the entries `REF` has for the four opcodes are empty or missing. -/
theorem emptyAndUndefinedRowsSkipAhead : Obligations.EmptyAndUndefinedRowsSkipAhead := by
  intro s n i opcode hmem
  simp only [List.mem_cons, List.not_mem_nil, or_false, Prod.mk.injEq] at hmem
  obtain ⟨rfl, rfl⟩ | ⟨rfl, rfl⟩ | ⟨rfl, rfl⟩ | ⟨rfl, rfl⟩ := hmem
  · exact executeRow_skip (.inr rfl)
  all_goals exact executeRow_skip (.inl rfl)

/-- Settles O15: each of the twelve rows has a list of the stated length in `REF`. -/
theorem rowFaultsPastItsList : Obligations.RowFaultsPastItsList := by
  intro s n i len hmem hupc
  have hrow : ∃ opcode l, refRow i = some (opcode, n) ∧ refMicrocode.lookup opcode = some l ∧ l ≠ [] ∧
      l.length = len := by
    simp only [List.mem_cons, List.not_mem_nil, or_false, Prod.mk.injEq] at hmem
    rcases hmem with ⟨rfl, rfl⟩ | ⟨rfl, rfl⟩ | ⟨rfl, rfl⟩ | ⟨rfl, rfl⟩ | ⟨rfl, rfl⟩ | ⟨rfl, rfl⟩ | ⟨rfl, rfl⟩ |
      ⟨rfl, rfl⟩ | ⟨rfl, rfl⟩ | ⟨rfl, rfl⟩ | ⟨rfl, rfl⟩ | ⟨rfl, rfl⟩
    all_goals exact ⟨_, _, rfl, rfl, List.cons_ne_nil _ _, rfl⟩
  obtain ⟨opcode, l, hi, hl, hne, rfl⟩ := hrow
  rw [exec_of_refRow hi, hl]
  exact executeRow_pastEnd hne hupc

/-! ## The ticks of each row (spec/45 R217 to R228) -/

section Ticks
variable {s : State} {n : Nat} (hn : n < 2 ^ (s.width / 2))
include hn

/-- An operand is an address of the machine. -/
theorem toNat_ofNat_operand : (BitVec.ofNat s.width n).toNat = n := by
  rw [BitVec.toNat_ofNat, Nat.mod_eq_of_lt]
  exact Nat.lt_of_lt_of_le hn (Nat.pow_le_pow_right Nat.two_pos (Nat.div_le_self _ _))

/-- The state after `IO|MI`, the first micro-step of every row that reads or writes memory. -/
theorem executeRow_ioMi {opcode : Nat} {rest : List Nat} (hrest : rest ≠ []) (hupc : s.core.upc = 2) :
    executeRow opcode n (some (0x00120 :: rest)) s = .next (s.setCore
      { s.core with
        ir := instrWord s.width opcode n
        bus := BitVec.ofNat s.width n, mar := BitVec.ofNat s.width n
        upc := 3, cw := { io := true, mi := true } }) := by
  have hseq : executeEntry (some (0x00120 :: rest)) (2 - 2) = .asserts 0x00120 3 := by
    rw [executeEntry_of_getElem? rfl, if_neg (by simpa using hrest)]
  rw [executeRow, hupc, hseq, CoreState.follow_ioMi]
  simp only [CoreState.holding, CoreState.setIr_ir, operandWord_instrWord hn]
  rfl

end Ticks

/-- Settles O11: `IO|MI`, then `RO|AI` at the address the operand names. -/
theorem ldaExecutes : Obligations.LdaExecutes := by
  intro s n hn hupc m
  refine ⟨executeRow_ioMi hn (List.cons_ne_nil _ _) hupc, ?_⟩
  calc exec (.lda n) (s.setCore m)
      = s.withOutcome ((m.holding 1 n).follow s.cfg.aluModeMap (.asserts 0x00081 0)) :=
        executeRow_setCore 1 n (some refLda) s m
    _ = _ := by
        rw [CoreState.follow_roAi]
        simp only [m, CoreState.holding, CoreState.setIr, toNat_ofNat_operand hn]
        rfl

/-- Settles O12: `IO|MI`, then `AO|RI` at the address the operand names. -/
theorem staExecutes : Obligations.StaExecutes := by
  intro s n hn hupc m
  refine ⟨executeRow_ioMi hn (List.cons_ne_nil _ _) hupc, memWrite s.core.mem n s.core.a, ?_,
    fun a => memRead_memWrite s.core.mem n a s.core.a⟩
  calc exec (.sta n) (s.setCore m)
      = s.withOutcome ((m.holding 4 n).follow s.cfg.aluModeMap (.asserts 0x00042 0)) :=
        executeRow_setCore 4 n (some refSta) s m
    _ = _ := by
        rw [CoreState.follow_aoRi]
        simp only [m, CoreState.holding, CoreState.setIr, toNat_ofNat_operand hn]
        rfl

/-- Under the reference mode map the ROM word `word` is the set `w`, and puts `f A B` on the bus and into `A`. -/
def AluWord {n : Nat} (word : Nat) (w : ControlWord) (f : Word n → Word n → Word n) : Prop :=
  ∀ (m : CoreState n) (u : Nat), m.follow refAluModeMap (.asserts word u) =
    .next { m with bus := f m.a m.b, a := f m.a m.b, upc := u, cw := w }

section AluWords
variable {n : Nat}

theorem aluWord_add : AluWord (n := n) 0x00E01 { eo := true, m1 := true, m2 := true, ai := true } (· + ·) := by
  intro m u
  rw [CoreState.follow_addAi, alu_refAluModeMap_add]

theorem aluWord_sub : AluWord (n := n) 0x01201 { eo := true, m3 := true, ai := true } (· - ·) := by
  intro m u
  rw [CoreState.follow_subAi, alu_refAluModeMap_sub]

theorem aluWord_and : AluWord (n := n) 0x00201 { eo := true, ai := true } (· &&& ·) := by
  intro m u
  rw [CoreState.follow_andAi, alu_refAluModeMap_and]

theorem aluWord_or : AluWord (n := n) 0x00601 { eo := true, m1 := true, ai := true } (· ||| ·) := by
  intro m u
  rw [CoreState.follow_orAi, alu_refAluModeMap_or]

theorem aluWord_xor : AluWord (n := n) 0x00A01 { eo := true, m2 := true, ai := true } (· ^^^ ·) := by
  intro m u
  rw [CoreState.follow_xorAi, alu_refAluModeMap_xor]

end AluWords

/-- The state after the first tick of an ALU row. -/
def aluAddressed (s : State) (opcode n : Nat) : CoreState s.width :=
  { s.core with
    ir := instrWord s.width opcode n
    bus := BitVec.ofNat s.width n, mar := BitVec.ofNat s.width n
    upc := 3, cw := { io := true, mi := true } }

/-- The state after the second tick of an ALU row. -/
def aluLoaded (s : State) (opcode n : Nat) : CoreState s.width :=
  { aluAddressed s opcode n with
    bus := memRead s.core.mem n, b := memRead s.core.mem n
    upc := 4, cw := { ro := true, bi := true } }

/-- The three ticks of a row with an ALU word last: `MAR <- n`, `B <- MEM[n]`, `A <- f A B`. -/
theorem executeRow_alu {s : State} {n opcode word : Nat} {w : ControlWord}
    {f : Word s.width → Word s.width → Word s.width} (hword : AluWord word w f) (hn : n < 2 ^ (s.width / 2))
    (hupc : s.core.upc = 2) (hmap : s.cfg.aluModeMap = refAluModeMap) :
    let row := executeRow opcode n (some [0x00120, 0x00084, word])
    let r := f s.core.a (memRead s.core.mem n)
    row s = .next (s.setCore (aluAddressed s opcode n)) ∧
    row (s.setCore (aluAddressed s opcode n)) = .next (s.setCore (aluLoaded s opcode n)) ∧
    row (s.setCore (aluLoaded s opcode n)) =
      .next (s.setCore { aluLoaded s opcode n with bus := r, a := r, upc := 0, cw := w }) := by
  refine ⟨executeRow_ioMi hn (List.cons_ne_nil _ _) hupc, ?_, ?_⟩
  · calc executeRow opcode n (some [0x00120, 0x00084, word]) (s.setCore (aluAddressed s opcode n))
        = s.withOutcome (((aluAddressed s opcode n).holding opcode n).follow s.cfg.aluModeMap (.asserts 0x00084 4)) :=
          executeRow_setCore _ _ _ s _
      _ = _ := by
          rw [CoreState.follow_roBi]
          simp only [aluLoaded, aluAddressed, CoreState.holding, CoreState.setIr, toNat_ofNat_operand hn]
          rfl
  · calc executeRow opcode n (some [0x00120, 0x00084, word]) (s.setCore (aluLoaded s opcode n))
        = s.withOutcome (((aluLoaded s opcode n).holding opcode n).follow s.cfg.aluModeMap (.asserts word 0)) :=
          executeRow_setCore _ _ _ s _
      _ = _ := by
          rw [hmap, hword]
          rfl

/-- Settles O13: the five rows differ in their last word only. -/
theorem aluRowsExecute : Obligations.AluRowsExecute := by
  intro s n hn hupc hmap i opcode w r hmem
  simp only [List.mem_cons, List.not_mem_nil, or_false, Prod.mk.injEq] at hmem
  obtain ⟨rfl, rfl, rfl, rfl⟩ | ⟨rfl, rfl, rfl, rfl⟩ | ⟨rfl, rfl, rfl, rfl⟩ | ⟨rfl, rfl, rfl, rfl⟩ |
    ⟨rfl, rfl, rfl, rfl⟩ := hmem
  · exact executeRow_alu aluWord_add hn hupc hmap
  · exact executeRow_alu aluWord_sub hn hupc hmap
  · exact executeRow_alu aluWord_and hn hupc hmap
  · exact executeRow_alu aluWord_or hn hupc hmap
  · exact executeRow_alu aluWord_xor hn hupc hmap

/-- The tick of a row with one micro-step: its word acts on the state with the row's word in `IR`. -/
theorem executeRow_singleton {s : State} {opcode n word : Nat} (hupc : s.core.upc = 2) :
    executeRow opcode n (some [word]) s =
      s.withOutcome ((s.core.holding opcode n).follow s.cfg.aluModeMap (.asserts word 0)) := by
  rw [executeRow, hupc]
  rfl

/-- Settles O14: each of the five lists has one word. -/
theorem oneTickRowsExecute : Obligations.OneTickRowsExecute := by
  intro s n hn hupc
  have hoperand (opcode : Nat) : operandWord (s.core.holding opcode n).ir = BitVec.ofNat s.width n :=
    operandWord_instrWord hn
  refine ⟨(executeRow_singleton hupc).trans ?ldi, (executeRow_singleton hupc).trans ?jmp,
    (executeRow_singleton hupc).trans ?tba, (executeRow_singleton hupc).trans ?out, (executeRow_singleton hupc).trans ?hlt⟩
  case ldi => rw [CoreState.follow_ioAi, hoperand]; rfl
  case jmp => rw [CoreState.follow_ioCi, hoperand]; rfl
  case tba => rw [CoreState.follow_boAi]; rfl
  case out => rw [CoreState.follow_aoOi]; rfl
  case hlt => rw [CoreState.follow_hlt]; rfl

end Sys2Proof.Machine
end

section
/-! Whole instructions of the running machine (spec/45 R216 to R230, spec/44 R198): LOOKUP and FETCH bring the word into `IR`,
and the EXECUTE ticks are those of the row with the entry the table has for the word's opcode. -/
namespace Sys2Proof.Machine

theorem ticks_one (s : State) : ticks 1 s = step s := by
  rw [ticks]
  cases step s <;> rfl

/-! ## LOOKUP and FETCH (spec/44 R187, R188) -/

/-- The state after LOOKUP and FETCH. -/
def State.fetched (s : State) : State :=
  s.setCore
    { s.core with
      bus := s.nextWord, ir := s.nextWord, mar := s.core.pc, pc := s.core.pc + 1
      upc := 2, cw := { ro := true, ii := true, ce := true } }

theorem step_of_upc_zero {s : State} (hrun : s.core.halt = false) (hupc : s.core.upc = 0) : step s = exec .lookup s := by
  rw [step_of_not_halt hrun, hupc]
  rfl

theorem step_of_upc_one {s : State} (hrun : s.core.halt = false) (hupc : s.core.upc = 1) : step s = exec .fetch s := by
  rw [step_of_not_halt hrun, hupc]
  rfl

theorem ticks_two_of_atLookup {s : State} (hat : s.atLookup) : ticks 2 s = .next s.fetched := by
  obtain ⟨hrun, hupc⟩ := hat
  have hlookup : step s = .next s.lookedUp := (step_of_upc_zero hrun hupc).trans (exec_lookup s)
  rw [ticks_succ_of_next hlookup, ticks_one, step_of_upc_one (s := s.lookedUp) hrun rfl,
    fetchBringsWordAndAdvances s.lookedUp]
  rfl

theorem ticks_of_atLookup {s : State} (hat : s.atLookup) (k : Nat) : ticks (2 + k) s = ticks k s.fetched :=
  ticks_add_of_next (ticks_two_of_atLookup hat)

/-! ## The EXECUTE tick as the tick of a row -/

/-- An EXECUTE tick is the tick of the row that stands in `IR`, with the entry the table has for its opcode. -/
theorem step_eq_executeRow {s : State} (hrun : s.core.halt = false) (hge : 2 ≤ s.core.upc) :
    step s = executeRow (hiHalf s.core.ir) (loHalf s.core.ir) (s.cfg.microcode.lookup (hiHalf s.core.ir)) s := by
  obtain ⟨k, hupc⟩ := Nat.exists_eq_add_of_le' hge
  rw [step_of_upc_eq_add_two hrun hupc, executeRow, CoreState.holding_halves, hupc]
  rfl

/-- Settles O24: the pointer selects LOOKUP or FETCH; under `REF` the row a word decodes to has the table's own entry. -/
theorem stepRunsDecodedInstruction : Obligations.StepRunsDecodedInstruction := by
  refine fun s hrun => ⟨step_of_upc_zero hrun, step_of_upc_one hrun, fun i hge htable hi => ?_⟩
  rw [step_eq_executeRow hrun hge, htable]
  exact (exec_of_decodeWord hi s).symm

/-- Settles O25: the third tick is the step of the fetched state. -/
theorem fetchedInstructionRunsThird : Obligations.FetchedInstructionRunsThird := by
  intro s i hat htable hi
  refine ⟨ticks_two_of_atLookup hat, ?_⟩
  obtain ⟨-, -, hexec⟩ := stepRunsDecodedInstruction s.fetched hat.1
  rw [ticks_of_atLookup hat 1, ticks_one]
  exact hexec i (Nat.le_refl 2) htable hi

/-- A running machine in EXECUTE, with an instruction in `IR` whose opcode the table gives this entry. -/
structure State.Executes (s : State) (opcode operand : Nat) (entry : Option (List Nat)) : Prop where
  running : s.core.halt = false
  execute : 2 ≤ s.core.upc
  opcode_lt : opcode < 2 ^ (s.width / 2)
  operand_lt : operand < 2 ^ (s.width / 2)
  word : s.core.ir = instrWord s.width opcode operand
  lookup : s.cfg.microcode.lookup opcode = entry

section Executes
variable {s : State} {opcode operand : Nat} {entry : Option (List Nat)}

theorem State.Executes.step_eq (h : s.Executes opcode operand entry) : step s = executeRow opcode operand entry s := by
  rw [step_eq_executeRow h.running h.execute, h.word, hiHalf_instrWord h.opcode_lt h.operand_lt,
    loHalf_instrWord h.operand_lt, h.lookup]

/-- The row's tick stays in the instruction as long as the machine runs and the pointer is not back at 0. -/
theorem State.Executes.next (h : s.Executes opcode operand entry) {m : CoreState s.width}
    (hstep : executeRow opcode operand entry s = .next (s.setCore m)) (hrun : m.halt = false) (hge : 2 ≤ m.upc)
    (hir : m.ir = instrWord s.width opcode operand) :
    (∀ k, ticks (k + 1) s = ticks k (s.setCore m)) ∧ (s.setCore m).Executes opcode operand entry :=
  ⟨fun _ => ticks_succ_of_next (h.step_eq.trans hstep), hrun, hge, h.opcode_lt, h.operand_lt, hir, h.lookup⟩

theorem State.Executes.ticks_one (h : s.Executes opcode operand entry) :
    ticks 1 s = executeRow opcode operand entry s :=
  (Machine.ticks_one s).trans h.step_eq

theorem State.fetched_executes (hat : s.atLookup) (hf : s.fetches opcode operand entry) :
    s.fetched.Executes opcode operand entry := by
  obtain ⟨hopcode, hoperand, hword, hlookup⟩ := hf
  exact ⟨hat.1, Nat.le_refl 2, hopcode, hoperand, hword, hlookup⟩

/-- An instruction of one EXECUTE tick: its third tick is the row's one tick on the fetched state. -/
theorem ticks_three_of_fetches (hat : s.atLookup) (hf : s.fetches opcode operand entry) :
    ticks 3 s = executeRow opcode operand entry s.fetched :=
  (ticks_of_atLookup hat 1).trans (State.fetched_executes hat hf).ticks_one

end Executes

/-! ## The net effects (spec/45 R216 to R229) -/

/-- Settles O16: the two ticks of `LDA` on the fetched state. -/
theorem ldaNetEffect : Obligations.LdaNetEffect := by
  intro s n hat hf
  obtain ⟨-, hn, hword, -⟩ := id hf
  obtain ⟨h₁, h₂⟩ := ldaExecutes s.fetched n hn rfl
  obtain ⟨ht₁, hexec₁⟩ := (State.fetched_executes hat hf).next h₁ hat.1 (Nat.le_add_right 2 1) rfl
  rw [ticks_of_atLookup hat 2, ht₁, hexec₁.ticks_one, hword]
  exact h₂

/-- Settles O18: the two ticks of `STA` on the fetched state. -/
theorem staNetEffect : Obligations.StaNetEffect := by
  intro s n hat hf
  obtain ⟨-, hn, hword, -⟩ := id hf
  obtain ⟨h₁, mem, h₂, hmem⟩ := staExecutes s.fetched n hn rfl
  obtain ⟨ht₁, hexec₁⟩ := (State.fetched_executes hat hf).next h₁ hat.1 (Nat.le_add_right 2 1) rfl
  rw [ticks_of_atLookup hat 2, ht₁, hexec₁.ticks_one, hword]
  exact ⟨mem, h₂, hmem⟩

/-- The three ticks of a row with an ALU word last, on the fetched state. -/
theorem ticks_five_of_aluWord {s : State} {n opcode word : Nat} {w : ControlWord}
    {f : Word s.width → Word s.width → Word s.width} (hword : AluWord word w f) (hat : s.atLookup)
    (hmap : s.cfg.aluModeMap = refAluModeMap) (hf : s.fetches opcode n (some [0x00120, 0x00084, word])) :
    ticks 5 s = .next (s.setCore
      { s.core with
        pc := s.core.pc + 1, ir := s.nextWord, mar := BitVec.ofNat s.width n
        b := memRead s.core.mem n, a := f s.core.a (memRead s.core.mem n), bus := f s.core.a (memRead s.core.mem n)
        upc := 0, cw := w }) := by
  obtain ⟨-, hn, hnext, -⟩ := id hf
  obtain ⟨h₁, h₂, h₃⟩ := executeRow_alu (s := s.fetched) (opcode := opcode) hword hn rfl hmap
  obtain ⟨ht₁, hexec₁⟩ := (State.fetched_executes hat hf).next h₁ hat.1 (Nat.le_add_right 2 1) rfl
  obtain ⟨ht₂, hexec₂⟩ := hexec₁.next h₂ hat.1 (Nat.le_add_right 2 2) rfl
  rw [ticks_of_atLookup hat 3, ht₁, ht₂, hexec₂.ticks_one, hnext]
  exact h₃

/-- Settles O17: the five instructions differ in their last word only. -/
theorem aluRowsNetEffect : Obligations.AluRowsNetEffect := by
  intro s n hat hmap opcode word w r hmem
  simp only [List.mem_cons, List.not_mem_nil, or_false, Prod.mk.injEq] at hmem
  obtain ⟨rfl, rfl, rfl, rfl⟩ | ⟨rfl, rfl, rfl, rfl⟩ | ⟨rfl, rfl, rfl, rfl⟩ | ⟨rfl, rfl, rfl, rfl⟩ |
    ⟨rfl, rfl, rfl, rfl⟩ := hmem
  · exact ticks_five_of_aluWord aluWord_add hat hmap
  · exact ticks_five_of_aluWord aluWord_sub hat hmap
  · exact ticks_five_of_aluWord aluWord_and hat hmap
  · exact ticks_five_of_aluWord aluWord_or hat hmap
  · exact ticks_five_of_aluWord aluWord_xor hat hmap

/-- Settles O19: the one tick of `LDI`, or of `TBA`, on the fetched state. -/
theorem ldiAndTbaNetEffect : Obligations.LdiAndTbaNetEffect := by
  refine fun s n hat => ⟨fun hf => ?_, fun hf => ?_⟩
  all_goals
    obtain ⟨-, hn, hword, -⟩ := id hf
    obtain ⟨hldi, -, htba, -⟩ := oneTickRowsExecute s.fetched n hn rfl
    rw [hword]
  · exact (ticks_three_of_fetches hat hf).trans hldi
  · exact (ticks_three_of_fetches hat hf).trans htba

/-- Settles O20: the one tick of `JMP` on the fetched state, whose counter it overwrites. -/
theorem jmpNetEffect : Obligations.JmpNetEffect := by
  intro s n hat hf
  obtain ⟨-, hn, hword, -⟩ := id hf
  obtain ⟨-, hjmp, -⟩ := oneTickRowsExecute s.fetched n hn rfl
  rw [hword]
  exact (ticks_three_of_fetches hat hf).trans hjmp

/-- Settles O21: the one tick of `OUT` on the fetched state. -/
theorem outNetEffect : Obligations.OutNetEffect := by
  intro s n hat hf
  obtain ⟨-, hn, hword, -⟩ := id hf
  obtain ⟨-, -, -, hout, -⟩ := oneTickRowsExecute s.fetched n hn rfl
  rw [hword]
  exact (ticks_three_of_fetches hat hf).trans hout

/-- Settles O22: the one tick of `HLT` on the fetched state, and then a halted machine's ticks. -/
theorem hltNetEffect : Obligations.HltNetEffect := by
  intro s n k hat hf
  obtain ⟨-, hn, hword, -⟩ := id hf
  obtain ⟨-, -, -, -, hhlt⟩ := oneTickRowsExecute s.fetched n hn rfl
  rw [ticks_add_of_next ((ticks_three_of_fetches hat hf).trans hhlt), ticks_of_halt rfl, State.fetched, hword]
  rfl

/-- Settles O23: the third tick is a skip-ahead on the fetched state, at the advanced counter. -/
theorem skippedInstructionNetEffect : Obligations.SkippedInstructionNetEffect := by
  intro s opcode n entry hat hf hentry
  obtain ⟨-, hn, hword, -⟩ := id hf
  rw [hword]
  exact (ticks_three_of_fetches hat hf).trans (executeRow_skip hentry)

/-! ## The number of ticks of an instruction (spec/44 R198) -/

/-- A running machine at a well-formed micro-step runs its bands, and the pointer moves on or back to 0. -/
theorem step_of_microStepAt {s : State} {k len w : Nat} {c : ControlWord} (hrun : s.core.halt = false)
    (hupc : s.core.upc = k + 2) (hw : MicroStepAt s.cfg.microcode s.core.ir k len w) (hc : decodeControlWord w = .ok c) :
    step s = .next (s.setCore
      ((s.core.setUpc (if k + 1 = len then 0 else k + 3)).runWord s.cfg.aluModeMap c)) := by
  rw [step_of_not_halt hrun, hupc, seq_of_microStepAt hw, CoreState.follow_of_ok hc, State.withOutcome_next]

theorem microStepAt_of_fetches {s : State} {opcode n k : Nat} {l : List Nat} {ir : Word s.width}
    (hf : s.fetches opcode n (some l)) (hir : ir = s.nextWord) (hk : k < l.length) :
    MicroStepAt s.cfg.microcode ir k l.length l[k] := by
  obtain ⟨hopcode, hn, hword, hlookup⟩ := hf
  refine ⟨l, ?_, List.getElem?_eq_getElem hk, rfl⟩
  rw [hir, hword, hiHalf_instrWord hopcode hn, hlookup]

/-- As long as its list lasts the instruction stays in `IR` and the machine runs: `k` EXECUTE ticks move the pointer to
`k + 2`. -/
theorem ticks_before_last {s : State} {opcode n k : Nat} {l : List Nat} (hat : s.atLookup)
    (hf : s.fetches opcode n (some l)) (hok : microListOk l = true)
    (hhlt : ∀ w ∈ l.dropLast, (ControlWord.ofNat w).hlt = false) (hk : k < l.length) :
    ∃ m : CoreState s.width, ticks (2 + k) s = .next (s.setCore m) ∧ m.upc = k + 2 ∧ m.halt = false ∧
      m.ir = s.nextWord := by
  induction k with
  | zero => exact ⟨_, ticks_two_of_atLookup hat, rfl, hat.1, rfl⟩
  | succ k ih =>
    have hk' : k < l.length := Nat.lt_of_succ_lt hk
    have hlast : k + 1 ≠ l.length := Nat.ne_of_lt hk
    obtain ⟨m, hm, hupc, hrun, hir⟩ := ih hk'
    obtain ⟨c, hc, hii⟩ := decodes_of_microListOk hok (List.getElem?_eq_getElem hk')
    have hhltc : c.hlt = false := by
      obtain ⟨-, rfl, -⟩ := decodeControlWord_ok hc
      exact hhlt _ (List.getElem_dropLast (by simpa using Nat.lt_sub_of_add_lt hk) ▸ List.getElem_mem _)
    have hstep := step_of_microStepAt (s := s.setCore m) hrun hupc (microStepAt_of_fetches hf hir hk') hc
    refine ⟨_, (ticks_add_of_next (k := 1) hm).trans ((ticks_one _).trans hstep), ?_, ?_, ?_⟩
    · simp [hlast]
    · simpa [hhltc] using hrun
    · simpa [hii hlast] using hir

/-- Settles O31: `k` ticks after FETCH the pointer is `k + 2` as long as the list lasts, and the last micro-step's tick sets
it to 0. -/
theorem instructionTakesTwoPlusLengthTicks : Obligations.InstructionTakesTwoPlusLengthTicks := by
  intro s opcode n l hat hf hne hok hhlt
  constructor
  · have hlast : l.length - 1 < l.length := Nat.sub_one_lt (by simpa using hne)
    obtain ⟨m, hm, hupc, hrun, hir⟩ := ticks_before_last hat hf hok hhlt hlast
    obtain ⟨c, hc, -⟩ := decodes_of_microListOk hok (List.getElem?_eq_getElem hlast)
    have hstep := step_of_microStepAt (s := s.setCore m) hrun hupc (microStepAt_of_fetches hf hir hlast) hc
    have hlen : l.length - 1 + 1 = l.length := by omega
    rw [← hlen, ← Nat.add_assoc, ticks_add_of_next hm, ticks_one, hstep]
    exact ⟨_, rfl, by simp [hlen]⟩
  · intro j hpos hj
    obtain rfl | ⟨k, rfl⟩ : j = 1 ∨ ∃ k, j = 2 + k := by
      obtain h | h := Nat.lt_or_ge j 2
      · exact .inl (by omega)
      · exact .inr (Nat.exists_eq_add_of_le h)
    · exact ⟨_, (ticks_one s).trans ((step_of_upc_zero hat.1 hat.2).trans (exec_lookup s)), rfl⟩
    · obtain ⟨m, hm, hupc, -⟩ := ticks_before_last hat hf hok hhlt (k := k) (by omega)
      exact ⟨m, hm, by omega⟩

end Sys2Proof.Machine
end

section
/-! Frames (spec/10 R20, R35; spec/41 to spec/45): what every row of the opcode table leaves unchanged. A row is a control
line, a row of the sequencer, or a row of `REF`; each writes only what the lines of its words write. -/
namespace Sys2Proof.Machine

variable {n : Nat}

/-! ## The control lines: one guarded write each -/

/-- What a control line does to the machine's own state; nothing is given for the other rows. -/
def lineAct (map : List (Nat × AluOp)) (m : CoreState n) : Instr → Option (CoreState n)
  | .ai => some m.captureA
  | .ao => some m.driveA
  | .bi => some m.captureB
  | .bo => some m.driveB
  | .ii => some m.captureIr
  | .io => some m.driveIr
  | .ri => some m.captureRam
  | .ro => some m.driveRam
  | .mi => some m.captureMar
  | .eo => some (m.driveAlu map)
  | .m1 => some m
  | .m2 => some m
  | .m3 => some m
  | .ce => some m.incrementPc
  | .ci => some m.capturePc
  | .co => some m.drivePc
  | .oi => some m.captureOut
  | .hltLine => some m.raiseHalt
  | _ => none

theorem exec_of_lineAct {i : Instr} {s : State} {m : CoreState s.width}
    (h : lineAct s.cfg.aluModeMap s.core i = some m) : exec i s = .next (s.setCore m) := by
  cases i <;> cases h <;> rfl

section FrameRules
variable (w : ControlWord) (m : CoreState n)

theorem CoreState.FrameUnder.refl : CoreState.FrameUnder w m m := by
  constructor <;> simp

variable {w m}

theorem CoreState.FrameUnder.guarded {t : CoreState n} (h : CoreState.FrameUnder w m t) (b : Bool) :
    CoreState.FrameUnder w m (if b then t else m) := by
  cases b
  · exact .refl w m
  · exact h

theorem CoreState.FrameUnder.setBus (h : w.driverCount ≠ 0) (v : Word n) : CoreState.FrameUnder w m (m.setBus v) := by
  constructor <;> simp [h]

theorem CoreState.FrameUnder.setA (h : w.ai = true) (v : Word n) : CoreState.FrameUnder w m (m.setA v) := by
  constructor <;> simp [h]

theorem CoreState.FrameUnder.setB (h : w.bi = true) (v : Word n) : CoreState.FrameUnder w m (m.setB v) := by
  constructor <;> simp [h]

theorem CoreState.FrameUnder.setIr (h : w.ii = true) (v : Word n) : CoreState.FrameUnder w m (m.setIr v) := by
  constructor <;> simp [h]

theorem CoreState.FrameUnder.setPc (h : w.ce = true ∨ w.ci = true) (v : Word n) :
    CoreState.FrameUnder w m (m.setPc v) := by
  constructor <;> obtain h | h := h <;> simp [h]

theorem CoreState.FrameUnder.setMar (h : w.mi = true) (v : Word n) : CoreState.FrameUnder w m (m.setMar v) := by
  constructor <;> simp [h]

theorem CoreState.FrameUnder.store (h : w.ri = true) (v : Word n) :
    CoreState.FrameUnder w m (m.setMem (memWrite m.mem m.mar.toNat v)) := by
  constructor <;> simp [h]
  exact fun c hc => memRead_memWrite_other m.mem v hc

theorem CoreState.FrameUnder.setOut (h : w.oi = true) (v : Option (OutReg n)) :
    CoreState.FrameUnder w m (m.setOut v) := by
  constructor <;> simp [h]

theorem CoreState.FrameUnder.setHalt (h : w.hlt = true) (v : Bool) : CoreState.FrameUnder w m (m.setHalt v) := by
  constructor <;> simp [h]

end FrameRules

section Line
variable {map : List (Nat × AluOp)} {m t : CoreState n} {i : Instr} (h : lineAct map m i = some t)
include h

/-- A control line writes only what its own word writes (spec/40 R95). -/
theorem frameUnder_lineAct : CoreState.FrameUnder (ControlWord.ofNat (encode i).2) m t := by
  cases i <;> cases h
  case ai => exact (CoreState.FrameUnder.setA rfl _).guarded _
  case bi => exact (CoreState.FrameUnder.setB rfl _).guarded _
  case ii => exact (CoreState.FrameUnder.setIr rfl _).guarded _
  case ri => exact (CoreState.FrameUnder.store rfl _).guarded _
  case mi => exact (CoreState.FrameUnder.setMar rfl _).guarded _
  case ce => exact (CoreState.FrameUnder.setPc (.inl rfl) _).guarded _
  case ci => exact (CoreState.FrameUnder.setPc (.inr rfl) _).guarded _
  case oi => exact (CoreState.FrameUnder.setOut rfl _).guarded _
  case hltLine => exact (CoreState.FrameUnder.setHalt rfl _).guarded _
  case m1 | m2 | m3 => exact .refl _ _
  case ao | bo | io | ro | eo | co => exact (CoreState.FrameUnder.setBus (by decide) _).guarded _

theorem upc_cw_of_lineAct : t.upc = m.upc ∧ t.cw = m.cw := by
  cases i <;> cases h <;> simp

end Line

/-! ## Every row -/

/-- The ROM words that EXECUTE may assert for an opcode with this entry. -/
def entryWords : Option (List Nat) → List Nat
  | none => [lookupWord]
  | some [] => [lookupWord]
  | some (w :: rest) => w :: rest

theorem mem_entryWords_of_asserts {entry : Option (List Nat)} {k w u : Nat}
    (h : executeEntry entry k = .asserts w u) : w ∈ entryWords entry := by
  obtain ⟨hskip, hseq⟩ | ⟨l, w', rfl, hw, hseq⟩ | ⟨l, -, -, -, hseq⟩ := executeEntry_cases entry k <;>
    rw [hseq] at h <;> cases h
  · obtain rfl | rfl := hskip <;> exact List.mem_singleton_self _
  · cases l with
    | nil => cases hw
    | cons v rest => exact List.mem_of_getElem? hw

/-- The ROM words under which a row may act: a control line's own, the sequencer's, or those of the row's entry in `REF`. -/
def tickWords (i : Instr) : List Nat :=
  match refRow i with
  | none => [(encode i).2]
  | some (opcode, _) => entryWords (refMicrocode.lookup opcode)

theorem tickWords_of_refRow {i : Instr} {opcode operand : Nat} (hi : refRow i = some (opcode, operand)) :
    tickWords i = entryWords (refMicrocode.lookup opcode) := by
  rw [tickWords, hi]

theorem mem_tickWords_of_control {i : Instr} (hi : (encode i).1 = .control) : (encode i).2 ∈ tickWords i := by
  cases hrow : refRow i with
  | none => simp [tickWords, hrow]
  | some row =>
    rw [encode, encodeAt_of_refRow hrow] at hi
    cases hi

/-- A row is a control line, a row of the sequencer or a row of `REF`. -/
theorem row_cases (map : List (Nat × AluOp)) (m : CoreState n) (i : Instr) :
    (∃ t, lineAct map m i = some t) ∨ i ∈ [.lookup, .fetch, .skipAhead] ∨
    ∃ opcode operand, refRow i = some (opcode, operand) := by
  cases hline : lineAct map m i with
  | some t => exact .inl ⟨t, rfl⟩
  | none =>
    cases hrow : refRow i with
    | some row => exact .inr (.inr ⟨row.1, row.2, rfl⟩)
    | none => cases i <;> cases hline <;> cases hrow <;> simp

/-- The sequencer's rows follow their word. -/
theorem exec_of_sequencer {i : Instr} (hi : i ∈ [.lookup, .fetch, .skipAhead]) (s : State) :
    (encode i).1 = .control ∧
      ∃ u, exec i s = s.withOutcome (s.core.follow s.cfg.aluModeMap (.asserts (encode i).2 u)) := by
  simp only [List.mem_cons, List.not_mem_nil, or_false] at hi
  obtain rfl | rfl | rfl := hi <;> exact ⟨rfl, _, rfl⟩

/-- A tick that follows a ROM word writes only what the word's lines write, `UPC` and `CW` apart. -/
theorem frameUnder_of_follow {map : List (Nat × AluOp)} {m t : CoreState n} {r : SeqResult}
    (h : m.follow map r = .next t) : ∃ w u, r = .asserts w u ∧ CoreState.FrameUnder (ControlWord.ofNat w) m t := by
  obtain ⟨w, u, c, hr, hc, rfl⟩ := CoreState.follow_eq_next h
  obtain ⟨-, rfl, -⟩ := decodeControlWord_ok hc
  have hframe := CoreState.frameUnder_runWord map (ControlWord.ofNat w) (m.setUpc u)
  exact ⟨w, u, hr, hframe.bus, hframe.a, hframe.b, hframe.ir, hframe.pc, hframe.mar, hframe.mem, hframe.word, hframe.out,
    hframe.halt⟩

/-- A row that is no row of `REF` writes only what the lines of its word write. -/
theorem frameUnder_of_exec_control {i : Instr} {s : State} {m : CoreState s.width}
    (hi : (encode i).1 = .control) (h : exec i s = .next (s.setCore m)) :
    CoreState.FrameUnder (ControlWord.ofNat (encode i).2) s.core m := by
  obtain ⟨t, ht⟩ | hseq | ⟨opcode, operand, hrow⟩ := row_cases s.cfg.aluModeMap s.core i
  · rw [exec_of_lineAct ht] at h
    obtain rfl := State.setCore_inj (Host.Outcome.next.inj h)
    exact frameUnder_lineAct ht
  · obtain ⟨-, u, hu⟩ := exec_of_sequencer hseq s
    obtain ⟨t, ht, heq⟩ := State.withOutcome_eq_next (hu ▸ h)
    obtain rfl := State.setCore_inj heq
    obtain ⟨w, u', hw, hframe⟩ := frameUnder_of_follow ht
    cases hw
    exact hframe
  · rw [encode, encodeAt_of_refRow hrow] at hi
    cases hi

/-- A row of `REF` puts its word into `IR` (entry 19) and then writes only what the lines of one of its words write. -/
theorem frameUnder_of_exec_refRow {i : Instr} {s : State} {m : CoreState s.width} {opcode operand : Nat}
    (hi : refRow i = some (opcode, operand)) (h : exec i s = .next (s.setCore m)) :
    ∃ w ∈ tickWords i, CoreState.FrameUnder (ControlWord.ofNat w) (s.core.holding opcode operand) m := by
  rw [exec_of_refRow hi] at h
  obtain ⟨t, ht, heq⟩ := State.withOutcome_eq_next h
  obtain rfl := State.setCore_inj heq
  obtain ⟨w, u, hseq, hframe⟩ := frameUnder_of_follow ht
  exact ⟨w, tickWords_of_refRow hi ▸ mem_entryWords_of_asserts hseq, hframe⟩

/-- The two together: the frame of a row from the state with `v` in `IR`, which is what stood there or the row's word. -/
theorem frameUnder_of_exec {i : Instr} {s : State} {m : CoreState s.width} (h : exec i s = .next (s.setCore m)) :
    ∃ w ∈ tickWords i, ∃ v, CoreState.FrameUnder (ControlWord.ofNat w) (s.core.setIr v) m ∧
      ((encode i).1 = .control → v = s.core.ir) ∧
      ((encode i).1 = .instruction → v = BitVec.ofNat s.width (encodeAt (s.width / 2) i).2) := by
  cases hformat : (encode i).1 with
  | control =>
    exact ⟨_, mem_tickWords_of_control hformat, s.core.ir, frameUnder_of_exec_control hformat h, fun _ => rfl, nofun⟩
  | instruction =>
    obtain ⟨opcode, operand, hi⟩ := exists_refRow_of_instruction hformat
    obtain ⟨w, hw, hframe⟩ := frameUnder_of_exec_refRow hi h
    exact ⟨w, hw, _, hframe, nofun, fun _ => by rw [encodeAt_of_refRow hi]; rfl⟩

/-- A control line leaves the pointer and the word in force. -/
theorem upc_cw_of_exec_line {i : Instr} {s : State} {m : CoreState s.width} (hi : (encode i).1 = .control)
    (hseq : i ∉ [.lookup, .fetch, .skipAhead]) (h : exec i s = .next (s.setCore m)) :
    m.upc = s.core.upc ∧ m.cw = s.core.cw := by
  obtain ⟨t, ht⟩ | hmem | ⟨opcode, operand, hrow⟩ := row_cases s.cfg.aluModeMap s.core i
  · rw [exec_of_lineAct ht] at h
    obtain rfl := State.setCore_inj (Host.Outcome.next.inj h)
    exact upc_cw_of_lineAct ht
  · exact absurd hmem hseq
  · rw [encode, encodeAt_of_refRow hrow] at hi
    cases hi

theorem exec_eq_withOutcome (i : Instr) (s : State) : ∃ o, exec i s = s.withOutcome o := by
  obtain ⟨t, ht⟩ | hi | ⟨opcode, operand, hi⟩ := row_cases s.cfg.aluModeMap s.core i
  · exact ⟨.next t, exec_of_lineAct ht⟩
  · obtain ⟨-, u, hu⟩ := exec_of_sequencer hi s
    exact ⟨_, hu⟩
  · exact ⟨_, exec_of_refRow hi s⟩

/-- Settles O42: every row answers an outcome of the machine's own state, and a step is none or such an outcome. -/
theorem onlyTheCoreChanges : Obligations.OnlyTheCoreChanges := by
  constructor
  · intro i s t h
    obtain ⟨o, ho⟩ := exec_eq_withOutcome i s
    obtain ⟨m, -, hm⟩ := State.withOutcome_eq_next (ho ▸ h)
    exact ⟨m, hm⟩
  · intro s t h
    rw [stepIsTheTick s] at h
    obtain ⟨m, -, hm⟩ := State.withOutcome_eq_next h
    exact ⟨m, hm⟩

/-- Settles O43: for each element, none of the words of a row that is not named has the element's line. -/
theorem frameOfEveryInstruction : Obligations.FrameOfEveryInstruction := by
  intro i s m h
  obtain ⟨w, hw, v, hframe, hcontrol, hinstruction⟩ := frameUnder_of_exec h
  have lacks {p : ControlWord → Bool} (hp : (tickWords i).all (fun w => !p (ControlWord.ofNat w)) = true) :
      p (ControlWord.ofNat w) = false := by
    simpa using List.all_eq_true.mp hp w hw
  refine ⟨fun h₁ h₂ => hframe.a (lacks ?a), fun h₁ h₂ => hframe.b (lacks ?b),
    fun h₁ h₂ => hframe.pc (lacks ?ce) (lacks ?ci), fun h₁ h₂ => hframe.mar (lacks ?mar),
    fun h₁ h₂ => hframe.mem (lacks ?mem), ?word, fun h₁ h₂ => hframe.out (lacks ?out),
    fun h₁ h₂ => hframe.halt (lacks ?halt), ?bus, ?ir, ?irRow, fun h₁ h₂ => upc_cw_of_exec_line h₁ h₂ h⟩
  case a | b | ce | ci | mar | mem | out | halt => cases i <;> simp at h₁ h₂ <;> rfl
  case word =>
    intro a ha
    cases hri : (ControlWord.ofNat w).ri with
    | false => rw [hframe.mem hri]; rfl
    | true =>
      have hstore : (tickWords i).all (fun w => !((ControlWord.ofNat w).ri && (ControlWord.ofNat w).mi)) = true := by
        cases i <;> rfl
      have hmi : (ControlWord.ofNat w).mi = false := by
        simpa [hri] using lacks (p := fun c => c.ri && c.mi) hstore
      exact hframe.word a (by rw [hframe.mar hmi]; exact ha)
  case bus =>
    intro h₁ h₂
    have hdrivers : (tickWords i).all (fun w => !decide ((ControlWord.ofNat w).driverCount ≠ 0)) = true := by
      cases i <;> simp [encode, encodeAt] at h₁ h₂ <;> rfl
    exact hframe.bus (by simpa using lacks (p := fun c => decide (c.driverCount ≠ 0)) hdrivers)
  case ir =>
    intro hi h₁
    have hii : (tickWords i).all (fun w => !(ControlWord.ofNat w).ii) = true := by
      cases i <;> simp at h₁ <;> rfl
    rw [hframe.ir (lacks hii), CoreState.setIr_ir, hcontrol hi]
  case irRow =>
    intro hi
    have hii : (tickWords i).all (fun w => !(ControlWord.ofNat w).ii) = true := by
      cases i <;> simp [encode, encodeAt] at hi <;> rfl
    rw [hframe.ir (lacks hii), CoreState.setIr_ir, hinstruction hi]

end Sys2Proof.Machine
end

section
/-! Construction (spec/60 R241, spec/70 R265 to R268), the image load (spec/20 R62), and the sources of ticks (spec/40 R96,
R101, R104). -/
namespace Sys2Proof.Machine

variable {n : Nat}

/-! ## Laying out an image (spec/20 R62, D10) -/

/-- An image that loads leaves memory in canonical form. -/
theorem memWf_of_loadImageFrom {image : List ImageItem} {cursor : Nat} {mem mem' : List (Nat × Word n)}
    (hmem : memWf mem = true) (h : loadImageFrom cursor mem image = some mem') : memWf mem' = true := by
  induction image generalizing cursor mem with
  | nil =>
    cases h
    exact hmem
  | cons item rest ih =>
    cases item with
    | origin a => exact ih hmem h
    | word v =>
      rw [loadImageFrom] at h
      split at h
      · cases h
      · exact ih (memWf_memWrite hmem (by omega)) h

/-- The cursor an image leaves does not matter to items behind an origin. -/
theorem loadImageFrom_append_origin {image : List ImageItem} {cursor a : Nat} {mem mem' : List (Nat × Word n)}
    (h : loadImageFrom cursor mem image = some mem') (rest : List ImageItem) :
    loadImageFrom cursor mem (image ++ .origin a :: rest) = loadImageFrom a mem' rest := by
  induction image generalizing cursor mem with
  | nil =>
    cases h
    rfl
  | cons item items ih =>
    cases item with
    | origin b => exact ih h
    | word v =>
      rw [loadImageFrom] at h
      rw [List.cons_append, loadImageFrom]
      split at h
      · cases h
      · rw [if_neg (by assumption)]
        exact ih h

theorem loadImageFrom_append_of_none {image : List ImageItem} {cursor : Nat} {mem : List (Nat × Word n)}
    (h : loadImageFrom cursor mem image = none) (rest : List ImageItem) :
    loadImageFrom cursor mem (image ++ rest) = none := by
  induction image generalizing cursor mem with
  | nil => cases h
  | cons item items ih =>
    cases item with
    | origin b => exact ih h
    | word v =>
      rw [loadImageFrom] at h
      rw [List.cons_append, loadImageFrom]
      split
      · rfl
      · rename_i hcursor
        rw [if_neg hcursor] at h
        exact ih h

/-- Memory with the words `vs` from address `cursor` on. -/
def memFill (cursor : Nat) (mem : List (Nat × Word n)) : List Int → List (Nat × Word n)
  | [] => mem
  | v :: vs => memFill (cursor + 1) (memWrite mem cursor (BitVec.ofInt n v)) vs

theorem memRead_memFill (vs : List Int) (cursor : Nat) (mem : List (Nat × Word n)) (c : Nat) :
    memRead (memFill cursor mem vs) c =
      if cursor ≤ c ∧ c < cursor + vs.length then BitVec.ofInt n (vs[c - cursor]?.getD 0) else memRead mem c := by
  induction vs generalizing cursor mem with
  | nil =>
    rw [if_neg (by rw [List.length_nil]; omega)]
    rfl
  | cons v vs ih =>
    rw [memFill, ih, memRead_memWrite, List.length_cons]
    obtain hlt | rfl | hgt := Nat.lt_trichotomy c cursor
    · rw [if_neg (by omega), if_neg (by omega), if_neg (by omega)]
    · rw [if_neg (by omega), if_pos rfl, if_pos (by omega), Nat.sub_self]
      rfl
    · obtain ⟨d, rfl⟩ := Nat.exists_eq_add_of_lt hgt
      rw [show cursor + d + 1 - cursor = d + 1 by omega, show cursor + d + 1 - (cursor + 1) = d by omega,
        List.getElem?_cons_succ, if_neg (show ¬ cursor + d + 1 = cursor by omega)]
      exact ite_congr (propext (by omega)) (fun _ => rfl) (fun _ => rfl)

theorem loadImageFrom_words_of_le {vs : List Int} {cursor : Nat} (h : cursor + vs.length ≤ 2 ^ n ∨ vs = [])
    (mem : List (Nat × Word n)) : loadImageFrom cursor mem (vs.map .word) = some (memFill cursor mem vs) := by
  induction vs generalizing cursor mem with
  | nil => rfl
  | cons v vs ih =>
    simp only [List.length_cons, reduceCtorEq, or_false] at h
    rw [List.map_cons, loadImageFrom, if_neg (by omega), memFill]
    exact ih (.inl (by omega)) _

theorem loadImageFrom_words_of_lt {vs : List Int} {cursor : Nat} (h : 2 ^ n < cursor + vs.length) (hne : vs ≠ [])
    (mem : List (Nat × Word n)) : loadImageFrom cursor mem (vs.map .word) = none := by
  induction vs generalizing cursor mem with
  | nil => exact absurd rfl hne
  | cons v vs ih =>
    rw [List.map_cons, loadImageFrom]
    split
    · rfl
    · rw [List.length_cons] at h
      exact ih (by omega) (fun hnil => by rw [hnil, List.length_nil] at h; omega) _

/-- What a read of words laid out gives, as an integer: the word modulo `2^N`. -/
theorem toNat_memRead_memFill (vs : List Int) (cursor : Nat) (mem : List (Nat × Word n)) (c : Nat) :
    ((memRead (memFill cursor mem vs) c).toNat : Int) =
      if cursor ≤ c ∧ c < cursor + vs.length then (vs[c - cursor]?.getD 0) % (2 ^ n : Nat)
      else ((memRead mem c).toNat : Int) := by
  rw [memRead_memFill]
  split
  · rw [BitVec.toNat_ofInt, Int.toNat_of_nonneg (Int.emod_nonneg _ (Int.ofNat_ne_zero.mpr (Nat.ne_of_gt (Nat.two_pow_pos n))))]
  · rfl

/-- Settles O51: words fill memory from the cursor, an origin sets the cursor, and a word past the top ends the load. -/
theorem imageLoad : Obligations.ImageLoad := by
  refine ⟨fun n vs hlen => ?_, fun n vs hlen => ?_, fun n image mem a vs hload => ⟨fun hfit => ?_, fun hlen hne => ?_⟩,
    fun n image rest hnone => loadImageFrom_append_of_none hnone rest⟩
  · have hload := loadImageFrom_words_of_le (n := n) (cursor := 0) (.inl (by omega)) [] (vs := vs)
    refine ⟨_, hload, memWf_of_loadImageFrom memWf_nil hload, fun a => ?_⟩
    rw [toNat_memRead_memFill]
    split
    · rfl
    · rw [List.getElem?_eq_none (by omega)]
      simp
  · exact loadImageFrom_words_of_lt (by omega) (List.ne_nil_of_length_pos (Nat.zero_lt_of_lt hlen)) []
  · refine ⟨_, (loadImageFrom_append_origin hload _).trans (loadImageFrom_words_of_le hfit mem), fun c => ?_⟩
    exact toNat_memRead_memFill vs a mem c
  · exact (loadImageFrom_append_origin hload _).trans (loadImageFrom_words_of_lt hlen hne mem)

/-! ## Building a machine (spec/60 R241, spec/70 R266) -/

/-- The machine that the checks let through, with its image laid out. -/
def builtState (p : BuildParams) (mem : List (Nat × Word p.width.toNat)) : State :=
  let cfg : Config :=
    { microcode := p.microcode
      aluModeMap := p.aluModeMap
      intervalMin := p.intervalMin
      intervalMax := p.intervalMax }
  { width := p.width.toNat
    cfg := cfg
    core := { CoreState.blank p.width.toNat p.hasOut with mem := mem }
    clock := { enabled := p.enabledAtReset, interval := clampInterval cfg p.interval, busy := false } }

/-- The checks that construction makes before it loads the image. -/
structure BuildOk (p : BuildParams) : Prop where
  width : 0 < p.width ∧ p.width % 2 = 0
  unique : opcodesUnique p.microcode = true
  table : microcodeOk p.microcode = true
  modes : aluModeMapOk p.aluModeMap = true
  interval : p.intervalMin ≤ p.intervalMax

/-- A check that refuses is passed on the way to a result. -/
theorem ok_of_check {ε α : Type} {c : Prop} [Decidable c] {e : ε} {x : Except ε α} {a : α}
    (h : (if c then .error e else x) = Except.ok a) : ¬ c ∧ x = .ok a := by
  by_cases hc : c
  · rw [if_pos hc] at h
    cases h
  · rw [if_neg hc] at h
    exact ⟨hc, h⟩

/-- A machine is built only if every check passes and the image loads. -/
theorem construct_eq_ok {p : BuildParams} {s : State} (h : construct p = .ok s) :
    BuildOk p ∧ ∃ mem, loadImage p.width.toNat p.image = some mem ∧ s = builtState p mem := by
  unfold construct at h
  obtain ⟨hwidth, h⟩ := ok_of_check h
  obtain ⟨-, h⟩ := ok_of_check h
  obtain ⟨hunique, h⟩ := ok_of_check h
  obtain ⟨htable, h⟩ := ok_of_check h
  obtain ⟨hmodes, h⟩ := ok_of_check h
  obtain ⟨hinterval, h⟩ := ok_of_check h
  simp only [Bool.not_eq_false] at hunique htable hmodes
  refine ⟨⟨by omega, hunique, htable, hmodes, by omega⟩, ?_⟩
  cases hload : loadImage p.width.toNat p.image with
  | none =>
    rw [hload] at h
    cases h
  | some mem =>
    rw [hload] at h
    cases h
    exact ⟨mem, rfl, rfl⟩

/-- Settles O48: the width check is the first, the components' check the second. -/
theorem constructRefusesBadWidths : Obligations.ConstructRefusesBadWidths := by
  constructor
  · intro p h
    rw [construct, if_pos (by omega)]
  · intro p hpos heven h
    have hmatch : widthsMatch p = false := by
      rw [← Bool.not_eq_true]
      intro hm
      simp only [widthsMatch, Bool.and_eq_true, Bool.or_eq_true, Bool.not_eq_true', beq_iff_eq] at hm
      obtain ⟨⟨⟨⟨⟨⟨⟨ha, hb⟩, hir⟩, hpc⟩, hmar⟩, hram⟩, halu⟩, hout⟩ := hm
      obtain h | h | h | h | h | h | h | ⟨hfitted, h⟩ := h
      case inr.inr.inr.inr.inr.inr.inr => exact h (hout.resolve_left (ne_false_of_eq_true hfitted))
      all_goals exact h (by assumption)
    rw [construct, if_neg (by omega), if_pos hmatch]

/-- Settles O49: the built machine is `builtState`, whose core is the blank one with the image for its memory. -/
theorem constructedMachineIsReset : Obligations.ConstructedMachineIsReset := by
  intro p s h
  obtain ⟨hok, mem, hload, rfl⟩ := construct_eq_ok h
  obtain ⟨hpos, -⟩ := hok.width
  exact ⟨Int.toNat_of_nonneg (Int.le_of_lt hpos), rfl, rfl, hload, rfl, rfl, rfl, rfl, rfl, rfl, rfl, rfl, rfl, rfl, rfl, rfl⟩

/-- Settles O47: the checks give the clauses on the configuration, the clamp the interval, the load the memory, and the
blank core the rest. -/
theorem constructedMachineMeetsInvariant : Obligations.ConstructedMachineMeetsInvariant := by
  intro p s h
  obtain ⟨hok, mem, hload, rfl⟩ := construct_eq_ok h
  obtain ⟨hpos, heven⟩ := hok.width
  refine State.inv_iff.mpr ⟨⟨?_, hok.unique, hok.table, hok.modes, ?_, rfl⟩,
    memWf_of_loadImageFrom memWf_nil hload, rfl, ?_, ?_⟩
  · show 0 < p.width.toNat ∧ p.width.toNat % 2 = 0
    omega
  · exact ⟨intervalMin_le_clampInterval hok.interval _, clampInterval_le_intervalMax _ _⟩
  · show ControlWord.empty.driverCount ≤ 1
    decide
  · show outHoldsLast (if p.hasOut then some { value := 0, trace := [] } else none) = true
    cases p.hasOut <;> simp [outHoldsLast]

/-- Settles O50: the reference configuration is one closed value, on which construction computes. -/
theorem resetIsTheReferenceMachine : Obligations.ResetIsTheReferenceMachine := rfl

/-- Settles O52: a built machine is about to look up, at address 0, so its first two ticks are LOOKUP and FETCH there. -/
theorem firstTicksAfterReset : Obligations.FirstTicksAfterReset := by
  intro p s h
  obtain ⟨-, mem, -, rfl⟩ := construct_eq_ok h
  have hat : (builtState p mem).atLookup := ⟨rfl, rfl⟩
  have hpc : (builtState p mem).core.pc + 1 = 1 := BitVec.zero_add 1
  have hnext : (builtState p mem).nextWord = memRead (builtState p mem).core.mem 0 := by
    rw [State.nextWord, show (builtState p mem).core.pc.toNat = 0 from BitVec.toNat_zero]
  constructor
  · rw [ticks_one, step_of_upc_zero hat.1 hat.2, exec_lookup]
    rfl
  · rw [ticks_two_of_atLookup hat, State.fetched, hpc, hnext]
    rfl

/-! ## The sources of ticks (spec/40 R96, R101, R104) -/

/-- A step neither reads nor writes the tick source. -/
theorem step_setBusy {s t : State} (h : step s = .next t) (b : Bool) : step (s.setBusy b) = .next (t.setBusy b) := by
  rw [stepIsTheTick s] at h
  obtain ⟨m, hm, rfl⟩ := State.withOutcome_eq_next h
  rw [stepIsTheTick (s.setBusy b)]
  exact congrArg (s.setBusy b).withOutcome hm

/-- With no tick running a source that ticks gives exactly the step's state. -/
theorem guardedTick_of_step {s t : State} (hidle : s.clock.busy = false) (h : step s = .next t) :
    guardedTick s = .next t := by
  obtain ⟨m, rfl⟩ := onlyTheCoreChanges.2 s t h
  rw [guardedTick_of_next hidle (step_setBusy h true), State.setBusy_setBusy]
  exact congrArg Host.Outcome.next (hidle ▸ State.setBusy_self (s.setCore m))

/-- Settles O59: each source asks `ENABLED` one way round, and the guard ticks exactly while no tick runs. -/
theorem tickSourcesAreExclusive : Obligations.TickSourcesAreExclusive := by
  intro s
  constructor
  · intro hidle t h
    cases henabled : s.clock.enabled <;> simp [clockEvent, henabled, guardedTick_of_step hidle h]
  · intro hbusy
    simp [clockEvent, guardedTick_of_busy hbusy]

end Sys2Proof.Machine
end
